-- ==== Sys2Proof/Word.lean ====
section
/-! DEFINITION. The block's words: a byte on the wire (10_state.md R21 to R23), a 7-bit bus address (20_memory.md R64)
and the 16-bit command word (30_encoding.md R80). Bits are numbered from 0, the least significant (00_scope.md R7). -/

namespace Sys2Proof

/-- A data byte, a frame, the contents of SR, TMP and RDATA (R21 to R23). -/
abbrev Byte := BitVec 8

/-- A bus address: 7 bits, 0x00 to 0x7F (R64). -/
abbrev Addr := BitVec 7

/-- A command word (R80). -/
abbrev Word := BitVec 16

end Sys2Proof
end

