-- ==== Sys2Proof/Config.lean ====
section
/-! DEFINITION. The implementation parameters of 00_scope.md R5 and 92_eei_decisions.md. `ADDR_BITS = 7`, `DATA_BITS = 8`
and `XFER_COUNTS = (1, 8)` have one legal value each, so they are the types `Addr`, `Byte` and `XferCount`. -/

namespace Sys2Proof

/-- `ROLE` (R3, R5): the one role an instance plays. -/
inductive Role where
  | controller
  | peripheral
  deriving DecidableEq, Repr

/-- `MATCH_MODE` (R5, R182): how P_START compares the captured frame with its own address. -/
inductive MatchMode where
  | rawByte
  | addrBits
  deriving DecidableEq, Repr

/-- `PERIPH_CLOCK_MODE` (R5, R142): whether the peripheral role drives the clock line in its transfers. -/
inductive ClockMode where
  | drive
  | follow
  deriving DecidableEq, Repr

/-- `XFER_COUNTS` (R5, R118): the only two lengths of a transfer. -/
inductive XferCount where
  | one
  | eight
  deriving DecidableEq, Repr

/-- The three named delays of R5, the arguments of the micro-operation DELAY (R113). -/
inductive DelayName where
  | tSettle
  | tPost
  | tStop
  deriving DecidableEq, Repr

/-- The three ports of R69. -/
inductive Port where
  | command
  | response
  | observation
  deriving DecidableEq, Repr

/-- The configuration fixed when the block is built (R5, R213). It stands in `State` as the field `cfg`, because the role
is an argument of the model; no step writes it (log entry 2). -/
structure Config where
  role : Role
  matchMode : MatchMode
  clockMode : ClockMode
  deriving DecidableEq, Repr

/-- The configuration the reset state has: the spec's `RAW_BYTE` and `DRIVE`, and the role CONTROLLER.
DESIGN CHOICE: R5 gives ROLE no default (log entry 2). Unsafe for a statement that rests on the role of `State.reset`. -/
def Config.initial : Config :=
  { role := .controller, matchMode := .rawByte, clockMode := .drive }

/-- `T_SETTLE`, `T_POST` and `T_STOP`: OPEN (92_eei_decisions.md D20), so a value with no body. No rule depends on them. -/
opaque Config.delayTime : DelayName → Nat

/-- `PORT_MAP`: OPEN (92_eei_decisions.md D35), so a value with no body. No rule depends on it. -/
opaque Config.portMap : Port → Nat

end Sys2Proof
end

