-- ==== Sys2Proof/Syntax.lean ====
section
/-! DEFINITION. The eight commands of spec/opcode_table.json, as 30_encoding.md R82 lists them. Operands have the source's
ranges (R83): a 7-bit address, a data byte, one flag bit. -/

namespace Sys2Proof

/-- One constructor per row of the opcode table (R82). -/
inductive Instr where
  /-- C_START: fresh start, frame and ACK; `readFlag` is the command's `F` (R152). -/
  | cStart (readFlag : Bool) (addr : Addr)
  /-- C_RSTART: the repeated-start variant (R153). -/
  | cRstart (readFlag : Bool) (addr : Addr)
  /-- C_WRITE: send one byte and sample the ACK (R154). -/
  | cWrite (data : Byte)
  /-- C_READ: receive one byte, then send an ACK (`more = 1`) or a NACK (R155). -/
  | cRead (more : Bool)
  /-- C_STOP: stop condition (R156). -/
  | cStop
  /-- P_START: wait for a start, capture the frame, match and ACK (R183). -/
  | pStart (own : Addr)
  /-- P_READ: receive one byte and ACK it (R184). -/
  | pRead
  /-- P_WRITE: send one byte and sample the controller's ACK (R185). -/
  | pWrite (data : Byte)
  deriving DecidableEq, Repr

/-- The role column of R82. -/
def Instr.role : Instr → Role
  | .cStart _ _ => .controller
  | .cRstart _ _ => .controller
  | .cWrite _ => .controller
  | .cRead _ => .controller
  | .cStop => .controller
  | .pStart _ => .peripheral
  | .pRead => .peripheral
  | .pWrite _ => .peripheral

end Sys2Proof
end

