-- ==== Sys2Proof/WellFormed.lean ====
section
/-! DEFINITION. When a command is well formed. The operand ranges of 30_encoding.md R83 hold by the operands' types, so the
one check left on a command is the role check of R84; the range checks on numbers a programmer writes (R88) are
`AsmLine.inRange` in Machine/Assembler.lean. -/

namespace Sys2Proof

/-- A command is legal only for a block of its own role (R84, R85 case 6). -/
abbrev Instr.WellFormed (r : Role) (i : Instr) : Prop :=
  i.role = r

end Sys2Proof
end

