-- ==== Sys2Proof/Decode.lean ====
section
/-! DEFINITION. Decoding a command word (30_encoding.md R80 to R87) and, after it, encoding a command (R88). -/

namespace Sys2Proof

/-- Which of R84's checks a word failed. All of them give the result ILLEGAL_CMD; "a model may record which check failed
as a sub-reason" (R84). -/
inductive IllegalReason where
  | reservedOpcode
  | mustBeZero
  | wrongRole
  deriving DecidableEq, Repr

/-- The rows of R82 that are not reserved. -/
inductive Row where
  | cStart
  | cRstart
  | cWrite
  | cRead
  | cStop
  | pStart
  | pRead
  | pWrite
  deriving DecidableEq, Repr

/-- `OP = w[15:12]` (R81). -/
def opField (w : Word) : BitVec 4 := w.extractLsb' 12 4

/-- `F = w[11]` (R81). -/
def flagField (w : Word) : Bool := w.getLsbD 11

/-- `Z = w[10:8]` (R81). -/
def zeroField (w : Word) : BitVec 3 := w.extractLsb' 8 3

/-- `IMM8 = w[7:0]` (R81). -/
def immField (w : Word) : Byte := w.extractLsb' 0 8

/-- `A7 = w[6:0]` (R81). -/
def addrField (w : Word) : Addr := w.extractLsb' 0 7

/-- The opcode column of R82; `none` for a reserved opcode (R85 case 1). -/
def rowOf (op : BitVec 4) : Option Row :=
  match op.toNat with
  | 0x1 => some .cStart
  | 0x2 => some .cRstart
  | 0x3 => some .cWrite
  | 0x4 => some .cRead
  | 0x5 => some .cStop
  | 0x8 => some .pStart
  | 0x9 => some .pRead
  | 0xA => some .pWrite
  | _ => none

/-- The mask column of R82. -/
def Row.mask : Row → Word
  | .cStart => 0xF780
  | .cRstart => 0xF780
  | .cWrite => 0xFF00
  | .cRead => 0xF7FF
  | .cStop => 0xFFFF
  | .pStart => 0xFF80
  | .pRead => 0xFFFF
  | .pWrite => 0xFF00

/-- The match column of R82. -/
def Row.pattern : Row → Word
  | .cStart => 0x1000
  | .cRstart => 0x2000
  | .cWrite => 0x3000
  | .cRead => 0x4000
  | .cStop => 0x5000
  | .pStart => 0x8000
  | .pRead => 0x9000
  | .pWrite => 0xA000

/-- The command of a row with the operands R81 extracts. -/
def Row.instr (row : Row) (w : Word) : Instr :=
  match row with
  | .cStart => .cStart (flagField w) (addrField w)
  | .cRstart => .cRstart (flagField w) (addrField w)
  | .cWrite => .cWrite (immField w)
  | .cRead => .cRead (flagField w)
  | .cStop => .cStop
  | .pStart => .pStart (addrField w)
  | .pRead => .pRead
  | .pWrite => .pWrite (immField w)

/-- The first two checks of R84, which do not read the role: the opcode, then the must-be-zero bits. Total on every word. -/
def decodeWord (w : Word) : Except IllegalReason Instr :=
  match rowOf (opField w) with
  | none => .error .reservedOpcode
  | some row => if w &&& row.mask = row.pattern then .ok (row.instr w) else .error .mustBeZero

/-- `decode(w, ROLE)` of R84, with its three checks in the order shown there. -/
def decode (r : Role) (w : Word) : Except IllegalReason Instr :=
  match decodeWord w with
  | .error e => .error e
  | .ok i => if i.role = r then .ok i else .error .wrongRole

/-- The word of a command, from the table of R88. -/
def encode : Instr → Word
  | .cStart f a => 0x1000#16 ||| (if f then 0x0800#16 else 0x0000#16) ||| a.setWidth 16
  | .cRstart f a => 0x2000#16 ||| (if f then 0x0800#16 else 0x0000#16) ||| a.setWidth 16
  | .cWrite d => 0x3000#16 ||| d.setWidth 16
  | .cRead more => if more then 0x4800#16 else 0x4000#16
  | .cStop => 0x5000#16
  | .pStart a => 0x8000#16 ||| a.setWidth 16
  | .pRead => 0x9000#16
  | .pWrite d => 0xA000#16 ||| d.setWidth 16

/-- What the decoder reads from a command of `nbits` bits whose value is `w`. Every command is exactly 16 bits (R87), given
whole to the command port (R67, R68), so there is no byte order to lay out; any other length is no command. -/
def decodeTableWord (nbits w : Nat) : Option Instr :=
  if nbits = 16 ∧ w < 65536 then
    match decodeWord (BitVec.ofNat 16 w) with
    | .ok i => some i
    | .error _ => none
  else none

end Sys2Proof
end

