-- ==== Sys2Proof/Machine/State.lean ====
section
/-! DEFINITION. The state of the block (10_state.md), the reasons a step can stop, and the state after reset (R46). -/

namespace Sys2Proof.Machine

/-- CSTATE, the controller state (R37). The values 6 and 7 are never reached, so the type omits them
(93_implementation_defined.md section 2). -/
inductive CState where
  | idle
  | start
  | address
  | data
  | stop
  | waitStop
  deriving DecidableEq, Repr

/-- PSTATE, the peripheral state (R38). -/
inductive PState where
  | waitStart
  | matchAddress
  | ackAddress
  | dataExchange
  deriving DecidableEq, Repr

/-- RESULT, the result code (60_exceptions.md R201). The codes 4, 5 and 6 are never written, so the type omits them. -/
inductive ResultCode where
  | ok
  | startNotDetected
  | nack
  | addressMismatch
  | illegalCmd
  deriving DecidableEq, Repr

/-- Which agent acts in a step, with what it brings (40_line_primitives.md R100). -/
inductive Event where
  /-- ENGINE takes a step (R105). -/
  | engine
  /-- HOST offers a command word (R104). -/
  | host (w : Word)
  /-- PEER drives the clock line with `scl` and the data line with `sda` (R122); `true` releases the line. -/
  | peer (scl sda : Bool)
  /-- RESET acts (70_reset_and_hazards.md R230). -/
  | reset
  deriving DecidableEq, Repr

/-- The state of the block and of its environment. Line levels and one-bit registers are `Bool`, `true` for 1. -/
structure State where
  /-- `ROLE`, `MATCH_MODE` and `PERIPH_CLOCK_MODE` (00_scope.md R5); no step writes it (log entry 2). -/
  cfg : Config
  /-- The model's own field: the events to come, the next one first (R34 "an input sequence", R100 "chosen freely"). With
  none left the environment is quiet and ENGINE acts whenever it can (log entry 1). -/
  sched : List Event
  /-- ENV_SCL, the peer's drive of the clock line (R34). -/
  envScl : Bool
  /-- ENV_SDA, the peer's drive of the data line (R34). -/
  envSda : Bool
  /-- SR, the shift register (R21). -/
  sr : Byte
  /-- TMP, the capture register (R22). -/
  tmp : Byte
  /-- RDATA, the response data register (R23). -/
  rdata : Byte
  /-- CMDR, the command register (R36). -/
  cmdr : Word
  /-- BUSY (R35). -/
  busy : Bool
  /-- CSTEP, the step of the command's micro-program (R35). -/
  cstep : BitVec 4
  /-- XSTEP, the step of the transfer (R35). -/
  xstep : BitVec 4
  /-- XN, the length of the transfer: 0 for 1 bit, 1 for 8 bits (R35). -/
  xn : Bool
  /-- START_DET, the start-detected flag (R26). -/
  startDet : Bool
  /-- OVF, the transfer-complete flag (R27). -/
  ovf : Bool
  /-- CNT, the clock edges the transfer still has to drive (R28). -/
  cnt : BitVec 5
  /-- CLK_DIR, the clock line's direction, 1 = output (R31). -/
  clkDir : Bool
  /-- CLK_PORT, the clock line's level, 1 = release (R31). -/
  clkPort : Bool
  /-- DAT_DIR, the data line's direction, 1 = output (R31). -/
  datDir : Bool
  /-- DAT_PORT, the data line's level, 1 = release (R31). -/
  datPort : Bool
  /-- DOL, the data output latch (R32). -/
  dol : Bool
  /-- SCL_OBS, the observed clock level (R33). -/
  sclObs : Bool
  /-- SDA_OBS, the observed data level (R33). -/
  sdaObs : Bool
  /-- CSTATE (R37). -/
  cstate : CState
  /-- PSTATE (R38). -/
  pstate : PState
  /-- XDIR, the direction of the open transaction (R39). -/
  xdir : Bool
  /-- RESULT (R24). -/
  result : ResultCode
  /-- RSP_VALID (R25). -/
  rspValid : Bool
  /-- F_ORDER, the sticky order fault (R41). -/
  fOrder : Bool
  /-- F_ILLEGAL, the sticky illegal-word fault (R41). -/
  fIllegal : Bool
  deriving DecidableEq, Repr

/-- Why the machine stops. Only an engine step raises one, and only with a sequencer value that the spec says never occurs:
"A micro-program never wraps: every path ends in `finish`" (R35). All three are safe: no run the spec has reaches them (log entry 5). -/
inductive Fault where
  /-- Raised by an engine step (Machine/Agents.lean) when BUSY = 1 and CMDR holds no command of this role, which acceptance
  never leaves (R104). Safe. -/
  | noCommand
  /-- Raised by an engine step (Machine/Program.lean) when CSTEP is past the end of the command's micro-program (R35). Safe. -/
  | offProgram
  /-- Raised by an engine step (Machine/Program.lean) when XSTEP is past X8 at an XFER step (R131). Safe. -/
  | offTransfer
  deriving DecidableEq, Repr

/-- Why an instruction has no meaning. -/
inductive Refusal where
  /-- Raised only by an arm of `exec` whose instruction has no meaning yet; no arm is left that raises it. Safe. -/
  | notModelled (mnemonic : String)
  deriving DecidableEq, Repr

/-- The state right after reset: R46's table, with both lines released by the peer (95_test_vectors.md section 0, log
entry 3), the configuration of log entry 2 and no events to come (log entry 1). -/
def State.reset : State where
  cfg := Config.initial
  sched := []
  envScl := true
  envSda := true
  sr := 0xFF#8
  tmp := 0x00#8
  rdata := 0x00#8
  cmdr := 0x0000#16
  busy := false
  cstep := 0#4
  xstep := 0#4
  xn := false
  startDet := false
  ovf := false
  cnt := 0#5
  clkDir := true
  clkPort := true
  datDir := true
  datPort := true
  dol := true
  sclObs := true
  sdaObs := true
  cstate := .idle
  pstate := .waitStart
  xdir := false
  result := .ok
  rspValid := false
  fOrder := false
  fIllegal := false

end Sys2Proof.Machine
end

