-- ==== Sys2Proof/Machine/Operands.lean ====
section
/-! DEFINITION. What the commands make of their operands: the frame (42_controller.md R157, 20_memory.md R66), the ACK and
NACK patterns (R158), the ACK test (R159) and the address match (43_peripheral.md R182). -/

namespace Sys2Proof.Machine

/-- `frame(A7, F) = A7 : F` (R157): the address in bits 7..1, the direction in bit 0. -/
def frame (a : Addr) (f : Bool) : Byte :=
  a ++ BitVec.ofBool f

/-- The pattern that sends an ACK: 0x00 (R158, 90_conflicts.md C1). -/
def ackPattern : Byte := 0x00#8

/-- The pattern that sends a NACK: 0xFF (R158). -/
def nackPattern : Byte := 0xFF#8

/-- The pattern C_READ loads: ACK with `more = 1`, NACK with `more = 0` (R155 step 3). -/
def readPattern (more : Bool) : Byte :=
  if more then ackPattern else nackPattern

/-- The bit a 1-bit transfer sampled, `TMP[0]`: 0 is ACK, 1 is NACK (R159). -/
def sampledNack (tmp : Byte) : Bool :=
  tmp.getLsbD 0

/-- `match(a, own)` (R182). -/
def addressMatch (mode : MatchMode) (a : Byte) (own : Addr) : Bool :=
  match mode with
  | .rawByte => decide (a = own.setWidth 8)
  | .addrBits => decide (a.extractLsb' 1 7 = own)

/-- `2 * bitCount` (R132): 2 for a 1-bit transfer, 16 for an 8-bit one. -/
def edgesOf : XferCount → BitVec 5
  | .one => 2#5
  | .eight => 16#5

/-- The value X0 writes to XN (R35, R132). -/
def isEight : XferCount → Bool
  | .one => false
  | .eight => true

/-- The code of a result (60_exceptions.md R201). -/
def ResultCode.code : ResultCode → BitVec 3
  | .ok => 0#3
  | .startNotDetected => 1#3
  | .nack => 2#3
  | .addressMismatch => 3#3
  | .illegalCmd => 7#3

/-- The value of a controller state (10_state.md R37). -/
def CState.code : CState → BitVec 3
  | .idle => 0#3
  | .start => 1#3
  | .address => 2#3
  | .data => 3#3
  | .stop => 4#3
  | .waitStop => 5#3

/-- The value of a peripheral state (10_state.md R38). -/
def PState.code : PState → BitVec 2
  | .waitStart => 0#2
  | .matchAddress => 1#2
  | .ackAddress => 2#2
  | .dataExchange => 3#2

end Sys2Proof.Machine
end

