-- ==== Sys2Proof/Machine/Ops.lean ====
section
/-! DEFINITION. The named operations on registers and lines: the line model (20_memory.md R60 to R62), the state effects of
the line and register micro-operations (40_line_primitives.md R106 to R116, R125), the line update that ends every step
(R101), the end of a command (R117, which stands in for trap entry, 60_exceptions.md R211), acceptance and refusal (R104),
and reset (70_reset_and_hazards.md R230). The block has no memory (20_memory.md R64). -/

namespace Sys2Proof.Machine

/-- The block is a peripheral in FOLLOW mode, so it never drives the clock (41_shift_engine.md R142). -/
def State.follows (s : State) : Bool :=
  decide (s.cfg.role = .peripheral ∧ s.cfg.clockMode = .follow)

/-- `own_scl()` (R61). -/
def State.ownScl (s : State) : Bool :=
  !(s.clkDir && !s.clkPort)

/-- `own_sda()` (R62). -/
def State.ownSda (s : State) : Bool :=
  !(s.datDir && (!s.datPort || !s.dol))

/-- `start_detect` (R102): the data line fell while the clock was observed high before and after the step. -/
def startSeen (prevScl prevSda scl sda : Bool) : Bool :=
  prevScl && scl && prevSda && !sda

/-- `post_step` (R101). The observed levels in `s` are those before the step; everything else in `s` is after the acting
agent's own effect. DOL is computed after SCL_OBS, and SDA_OBS after DOL. -/
def lineUpdate (s : State) : State :=
  let scl := s.ownScl && s.envScl
  let dol := if scl then s.dol else s.sr.getLsbD 7
  let sda := State.ownSda { s with dol := dol } && s.envSda
  { s with
    sclObs := scl
    dol := dol
    sdaObs := sda
    startDet := s.startDet || startSeen s.sclObs s.sdaObs scl sda }

/-- CLK_REL (R106); without effect in FOLLOW mode (R142). -/
def clkRel (s : State) : State :=
  { s with clkPort := if s.follows then s.clkPort else true }

/-- CLK_LOW (R107); without effect in FOLLOW mode (R142). -/
def clkLow (s : State) : State :=
  { s with clkPort := if s.follows then s.clkPort else false }

/-- DAT_LOW (R108). -/
def datLow (s : State) : State :=
  { s with datPort := false }

/-- DAT_REL (R109). -/
def datRel (s : State) : State :=
  { s with datPort := true }

/-- DAT_IN (R110). -/
def datIn (s : State) : State :=
  { s with datDir := false }

/-- DAT_OUT (R111). -/
def datOut (s : State) : State :=
  { s with datDir := true }

/-- LOAD_SR(v) (R114). -/
def loadSr (v : Byte) (s : State) : State :=
  { s with sr := v }

/-- SAVE_RDATA (R125). -/
def saveRdata (s : State) : State :=
  { s with rdata := s.tmp }

/-- SETC(c) (R116). -/
def setC (c : CState) (s : State) : State :=
  { s with cstate := c }

/-- SETP(p) (R116). -/
def setP (p : PState) (s : State) : State :=
  { s with pstate := p }

/-- SETDIR(b) (R116). -/
def setDir (b : Bool) (s : State) : State :=
  { s with xdir := b }

/-- The advance of CSTEP by 1 (40_line_primitives.md, head of the file). -/
def advance (s : State) : State :=
  { s with cstep := s.cstep + 1#4 }

/-- `finish(code)` (R117): the end of a command, the one way a command reports (R211). -/
def finish (code : ResultCode) (s : State) : State :=
  { s with
    result := code
    rspValid := true
    busy := false
    cstep := 0#4
    xstep := 0#4 }

/-- The legal path of `issue(w)` (R104), before the line update; `permitted` is the order check of R151 or R181. -/
def acceptCommand (w : Word) (permitted : Bool) (s : State) : State :=
  { s with
    cmdr := w
    fOrder := s.fOrder || !permitted
    rspValid := false
    busy := true
    cstep := 0#4
    xstep := 0#4 }

/-- The refusal path of `issue(w)` (R104, R205), before the line update. -/
def refuseCommand (w : Word) (s : State) : State :=
  { s with
    cmdr := w
    result := .illegalCmd
    rspValid := true
    fIllegal := true }

/-- The peer's own effect (R122), before the line update. -/
def setPeer (scl sda : Bool) (s : State) : State :=
  { s with envScl := scl, envSda := sda }

/-- A reset step (R230): every element at its value of R46, the observed levels recomputed from the released lines, the
environment's drives kept, the start detector not run. -/
def resetBlock (s : State) : State :=
  { State.reset with
    cfg := s.cfg
    sched := s.sched
    envScl := s.envScl
    envSda := s.envSda
    sclObs := s.envScl
    sdaObs := s.envSda }

end Sys2Proof.Machine
end

