-- ==== Sys2Proof/Machine/Flags.lean ====
section
/-! DEFINITION. The flags a step computes besides START_DET (which is `startSeen` in Machine/Ops.lean): CNT and OVF
(10_state.md R27, R28; 41_shift_engine.md R132 to R136), and the protocol-order checks behind F_ORDER (42_controller.md
R151, 43_peripheral.md R181). -/

namespace Sys2Proof.Machine

/-- The flags-clear and count load of X0 (R132). -/
def clearFlags (n : XferCount) (s : State) : State :=
  { s with startDet := false, ovf := false, cnt := edgesOf n, xn := isEight n }

/-- One counted clock edge (R28): `CNT <- CNT - 1`. -/
def countEdge (s : State) : State :=
  { s with cnt := s.cnt - 1#5 }

/-- A counted edge that may be the last: `CNT <- CNT - 1; if CNT = 0: OVF <- 1` (R135). -/
def countLastEdge (s : State) : State :=
  { s with cnt := s.cnt - 1#5, ovf := if s.cnt - 1#5 = 0#5 then true else s.ovf }

/-- The order check of a command permitted in every state (R151, R181). -/
def alwaysPermitted (_ : State) : Bool := true

/-- The order check of C_WRITE (`dir = 0`) and C_READ (`dir = 1`): `CSTATE = DATA` and `XDIR = dir` (R151). -/
def dataPhase (dir : Bool) (s : State) : Bool :=
  decide (s.cstate = .data ∧ s.xdir = dir)

/-- The order check of P_READ (`dir = 0`) and P_WRITE (`dir = 1`): `PSTATE = DATA_EXCHANGE` and `XDIR = dir` (R181). -/
def exchangePhase (dir : Bool) (s : State) : Bool :=
  decide (s.pstate = .dataExchange ∧ s.xdir = dir)

end Sys2Proof.Machine
end

