-- ==== Sys2Proof/Machine/Transfer.lean ====
section
/-! DEFINITION. The shift sequencer: the steps X0 to X8 of a transfer (41_shift_engine.md R131 to R138), with the FOLLOW
variant of X2 and X4 (R142). -/

namespace Sys2Proof.Machine

/-- What a micro-operation does in one engine step, before the line update. -/
inductive MicroResult where
  /-- The step is taken. -/
  | moved (s : State)
  /-- The micro-operation holds: the engine has no step (40_line_primitives.md R105). -/
  | holds
  /-- XSTEP is past X8, which never occurs (R131). -/
  | noStep
  deriving DecidableEq, Repr

/-- The advance of XSTEP by 1 (R131). -/
def nextX (s : State) : State :=
  { s with xstep := s.xstep + 1#4 }

/-- `SR <- SR[6:0] : SDA_OBS` (R134). -/
def shiftIn (s : State) : State :=
  { s with sr := s.sr.extractLsb' 0 7 ++ BitVec.ofBool s.sdaObs }

/-- X2 (R133): the counted rising edge. In FOLLOW it waits for the clock to be low and leaves CLK_PORT alone (R142). -/
def tglRise (s : State) : MicroResult :=
  if s.follows then
    if s.sclObs then .holds else .moved (nextX (countEdge s))
  else .moved (nextX (countEdge { s with clkPort := true }))

/-- X3 (R134): wait for the clock to be observed high, then sample. -/
def waitHighAndSample (s : State) : MicroResult :=
  if s.sclObs then .moved (nextX (shiftIn s)) else .holds

/-- X4 (R135): the counted falling edge. In FOLLOW it leaves CLK_PORT alone (R142). -/
def tglFall (s : State) : MicroResult :=
  .moved (nextX (countLastEdge (clkLow s)))

/-- X5 (R136): back to X1 while OVF = 0, on to X6 otherwise. -/
def loopTest (s : State) : State :=
  { s with xstep := if s.ovf then 6#4 else 1#4 }

/-- X7 (R137): `TMP <- SR; SR <- 0xFF`. -/
def capture (s : State) : State :=
  { s with tmp := s.sr, sr := 0xFF#8 }

/-- X8 (R138): `DAT_DIR <- 1; XSTEP <- 0; CSTEP <- CSTEP + 1`. -/
def returnFromXfer (s : State) : State :=
  { advance (datOut s) with xstep := 0#4 }

/-- `transfer_step(n)` (R105, R131): the step XSTEP names. -/
def transferStep (n : XferCount) (s : State) : MicroResult :=
  match s.xstep.toNat with
  | 0 => .moved (nextX (clearFlags n s))
  | 1 => .moved (nextX s)
  | 2 => tglRise s
  | 3 => waitHighAndSample s
  | 4 => tglFall s
  | 5 => .moved (loopTest s)
  | 6 => .moved (nextX s)
  | 7 => .moved (nextX (capture s))
  | 8 => .moved (returnFromXfer s)
  | _ => .noStep

end Sys2Proof.Machine
end

