-- ==== Sys2Proof/Machine/Program.lean ====
section
/-! DEFINITION. Micro-programs: the micro-operations of 40_line_primitives.md as data, what one of them does in one engine
step, and the two steps a command takes part in, its acceptance (R104) and its engine steps (R105). -/

namespace Sys2Proof.Machine

/-- The conditions an IF reads (R120). -/
inductive Cond where
  /-- `TMP[0] = 1`. -/
  | sampledNack
  /-- `F = value`, where `flag` is the command's `F`. -/
  | flagIs (flag value : Bool)
  /-- `match(TMP, own)` (R182). -/
  | matchesOwn (own : Addr)
  /-- `CSTATE = c`. -/
  | cstateIs (c : CState)
  /-- `PSTATE = p`. -/
  | pstateIs (p : PState)
  deriving DecidableEq, Repr

/-- The state-machine bookkeeping of R116. -/
inductive Setting where
  | setC (c : CState)
  | setP (p : PState)
  | setDir (b : Bool)
  /-- `SETDIR(TMP[0])` (R183 step 6). -/
  | setDirTmp
  deriving DecidableEq, Repr

/-- One effect of an action list; "each effect may be guarded by a condition" (R120). -/
structure GuardedSetting where
  guard : Option Cond
  setting : Setting
  deriving DecidableEq, Repr

/-- An action list (R119, R120): effects, then `finish(code)` or, with `none`, "advance +1". -/
structure ActionList where
  settings : List GuardedSetting
  ending : Option ResultCode
  deriving DecidableEq, Repr

/-- The micro-operations (R106 to R120, R125). -/
inductive MicroOp where
  | clkRel
  | clkLow
  | datLow
  | datRel
  | datIn
  | datOut
  | waitSclHigh
  | delay (name : DelayName)
  | loadSr (v : Byte)
  | waitStartDet
  | set (setting : Setting)
  | finish (code : ResultCode)
  | xfer (n : XferCount)
  | checkStart (fail : ActionList)
  | ifThenElse (cond : Cond) (thenDo elseDo : ActionList)
  | saveRdata
  deriving DecidableEq, Repr

/-- A condition's value in a state (R120). -/
def Cond.eval (s : State) : Cond → Bool
  | .sampledNack => Machine.sampledNack s.tmp
  | .flagIs flag value => decide (flag = value)
  | .matchesOwn own => addressMatch s.cfg.matchMode s.tmp own
  | .cstateIs c => decide (s.cstate = c)
  | .pstateIs p => decide (s.pstate = p)

/-- The effect of a setting (R116). -/
def Setting.apply (s : State) : Setting → State
  | .setC c => Machine.setC c s
  | .setP p => Machine.setP p s
  | .setDir b => Machine.setDir b s
  | .setDirTmp => Machine.setDir (s.tmp.getLsbD 0) s

/-- A setting under its guard (R120). -/
def GuardedSetting.apply (s : State) (g : GuardedSetting) : State :=
  match g.guard with
  | none => g.setting.apply s
  | some c => if c.eval s then g.setting.apply s else s

/-- An action list, all in one engine step (R119, R120). -/
def ActionList.run (l : ActionList) (s : State) : State :=
  match l.ending with
  | some code => Machine.finish code (l.settings.foldl GuardedSetting.apply s)
  | none => advance (l.settings.foldl GuardedSetting.apply s)

/-- One micro-operation in one engine step, before the line update (R105, "execute op per its rule"). -/
def MicroOp.run (op : MicroOp) (s : State) : MicroResult :=
  match op with
  | .clkRel => .moved (advance (Machine.clkRel s))
  | .clkLow => .moved (advance (Machine.clkLow s))
  | .datLow => .moved (advance (Machine.datLow s))
  | .datRel => .moved (advance (Machine.datRel s))
  | .datIn => .moved (advance (Machine.datIn s))
  | .datOut => .moved (advance (Machine.datOut s))
  | .waitSclHigh => if s.sclObs then .moved (advance s) else .holds
  | .delay _ => .moved (advance s)
  | .loadSr v => .moved (advance (Machine.loadSr v s))
  | .waitStartDet => if s.startDet then .moved (advance s) else .holds
  | .set setting => .moved (advance (setting.apply s))
  | .finish code => .moved (Machine.finish code s)
  | .xfer n => transferStep n s
  | .checkStart fail => .moved (if s.startDet then advance s else fail.run s)
  | .ifThenElse cond thenDo elseDo => .moved (if cond.eval s then thenDo.run s else elseDo.run s)
  | .saveRdata => .moved (advance (Machine.saveRdata s))

/-- `engine_step()` for the micro-program `prog` (R105). A micro-operation that holds leaves the state as it is: the engine
has no step, and only another agent can lift the hold (60_exceptions.md R207, log entry 4). -/
def engineStep (prog : List MicroOp) (s : State) : Host.Outcome State Fault Refusal :=
  match prog[s.cstep.toNat]? with
  | none => .fault .offProgram
  | some op =>
    match op.run s with
    | .moved t => .next (lineUpdate t)
    | .holds => .next s
    | .noStep => .fault .offTransfer

/-- The step a command takes part in: its acceptance or refusal while the block is idle (R104), one engine step of its
micro-program while it is busy (R105). `w` is the command's word, `role` its role and `permitted` its order check. -/
def runCommand (role : Role) (w : Word) (permitted : State → Bool) (prog : List MicroOp) (s : State) :
    Host.Outcome State Fault Refusal :=
  if s.busy then engineStep prog s
  else if s.cfg.role = role then .next (lineUpdate (acceptCommand w (permitted s) s))
  else .next (lineUpdate (refuseCommand w s))

end Sys2Proof.Machine
end

