-- ==== Sys2Proof/Machine/Controller.lean ====
section
/-! DEFINITION. The controller commands (42_controller.md): each one's micro-program, numbered by CSTEP, and its meaning. -/

namespace Sys2Proof.Machine

/-- The `fail` actions of the start check: `SETC(IDLE); finish(START_NOT_DETECTED)` (R152 step 6, R153 step 5). -/
def startFailed : ActionList :=
  { settings := [{ guard := none, setting := .setC .idle }], ending := some .startNotDetected }

/-- The branch on the frame's ACK bit (R152 step 14, R153 step 13). -/
def frameAcked : MicroOp :=
  .ifThenElse .sampledNack
    { settings := [{ guard := none, setting := .setC .waitStop }], ending := some .nack }
    { settings := [{ guard := none, setting := .setC .data }], ending := some .ok }

/-- The micro-program of C_START (R152). -/
def cStartProgram (f : Bool) (a : Addr) : List MicroOp :=
  [ .set (.setC .start),          -- 0
    .clkRel,                      -- 1
    .waitSclHigh,                 -- 2
    .datLow,                      -- 3
    .clkLow,                      -- 4
    .datRel,                      -- 5
    .checkStart startFailed,      -- 6
    .clkLow,                      -- 7
    .set (.setC .address),        -- 8
    .set (.setDir f),             -- 9
    .loadSr (frame a f),          -- 10
    .xfer .eight,                 -- 11
    .datIn,                       -- 12
    .xfer .one,                   -- 13
    frameAcked ]                  -- 14

/-- The micro-program of C_RSTART (R153): that of C_START without its step 3. -/
def cRstartProgram (f : Bool) (a : Addr) : List MicroOp :=
  [ .set (.setC .start),          -- 0
    .clkRel,                      -- 1
    .waitSclHigh,                 -- 2
    .clkLow,                      -- 3
    .datRel,                      -- 4
    .checkStart startFailed,      -- 5
    .clkLow,                      -- 6
    .set (.setC .address),        -- 7
    .set (.setDir f),             -- 8
    .loadSr (frame a f),          -- 9
    .xfer .eight,                 -- 10
    .datIn,                       -- 11
    .xfer .one,                   -- 12
    frameAcked ]                  -- 13

/-- The micro-program of C_WRITE (R154). -/
def cWriteProgram (d : Byte) : List MicroOp :=
  [ .clkLow,                      -- 0
    .loadSr d,                    -- 1
    .xfer .eight,                 -- 2
    .datIn,                       -- 3
    .xfer .one,                   -- 4
    .ifThenElse .sampledNack      -- 5
      { settings := [{ guard := some (.cstateIs .data), setting := .setC .waitStop }], ending := some .nack }
      { settings := [], ending := some .ok } ]

/-- The micro-program of C_READ (R155). -/
def cReadProgram (more : Bool) : List MicroOp :=
  [ .datIn,                       -- 0
    .xfer .eight,                 -- 1
    .saveRdata,                   -- 2
    .loadSr (readPattern more),   -- 3
    .xfer .one,                   -- 4
    .ifThenElse (.flagIs more false)  -- 5
      { settings := [{ guard := some (.cstateIs .data), setting := .setC .waitStop }], ending := some .ok }
      { settings := [], ending := some .ok } ]

/-- The micro-program of C_STOP (R156). -/
def cStopProgram : List MicroOp :=
  [ .set (.setC .stop),           -- 0
    .datLow,                      -- 1
    .clkRel,                      -- 2
    .waitSclHigh,                 -- 3
    .datRel,                      -- 4
    .delay .tStop,                -- 5
    .set (.setC .idle),           -- 6
    .finish .ok ]                 -- 7

/-- C_START (R152): permitted in every state (R151). -/
def execCStart (f : Bool) (a : Addr) (s : State) : Host.Outcome State Fault Refusal :=
  runCommand .controller (encode (.cStart f a)) alwaysPermitted (cStartProgram f a) s

/-- C_RSTART (R153): permitted in every state (R151). -/
def execCRstart (f : Bool) (a : Addr) (s : State) : Host.Outcome State Fault Refusal :=
  runCommand .controller (encode (.cRstart f a)) alwaysPermitted (cRstartProgram f a) s

/-- C_WRITE (R154): permitted in DATA with XDIR = 0 (R151). -/
def execCWrite (d : Byte) (s : State) : Host.Outcome State Fault Refusal :=
  runCommand .controller (encode (.cWrite d)) (dataPhase false) (cWriteProgram d) s

/-- C_READ (R155): permitted in DATA with XDIR = 1 (R151). -/
def execCRead (more : Bool) (s : State) : Host.Outcome State Fault Refusal :=
  runCommand .controller (encode (.cRead more)) (dataPhase true) (cReadProgram more) s

/-- C_STOP (R156): permitted in every state (R151). -/
def execCStop (s : State) : Host.Outcome State Fault Refusal :=
  runCommand .controller (encode .cStop) alwaysPermitted cStopProgram s

end Sys2Proof.Machine
end

