-- ==== Sys2Proof/Machine/Peripheral.lean ====
section
/-! DEFINITION. The peripheral commands (43_peripheral.md): each one's micro-program, numbered by CSTEP, and its meaning. -/

namespace Sys2Proof.Machine

/-- The micro-program of P_START (R183). -/
def pStartProgram (own : Addr) : List MicroOp :=
  [ .set (.setP .waitStart),      -- 0
    .waitStartDet,                -- 1
    .set (.setP .matchAddress),   -- 2
    .datIn,                       -- 3
    .xfer .eight,                 -- 4
    .saveRdata,                   -- 5
    .ifThenElse (.matchesOwn own) -- 6
      { settings := [{ guard := none, setting := .setP .ackAddress }, { guard := none, setting := .setDirTmp }],
        ending := none }
      { settings := [{ guard := none, setting := .setP .waitStart }], ending := some .addressMismatch },
    .loadSr ackPattern,           -- 7
    .xfer .one,                   -- 8
    .set (.setP .dataExchange),   -- 9
    .finish .ok ]                 -- 10

/-- The micro-program of P_READ (R184). -/
def pReadProgram : List MicroOp :=
  [ .datIn,                       -- 0
    .xfer .eight,                 -- 1
    .saveRdata,                   -- 2
    .loadSr ackPattern,           -- 3
    .xfer .one,                   -- 4
    .finish .ok ]                 -- 5

/-- The micro-program of P_WRITE (R185). -/
def pWriteProgram (d : Byte) : List MicroOp :=
  [ .clkLow,                      -- 0
    .loadSr d,                    -- 1
    .xfer .eight,                 -- 2
    .datIn,                       -- 3
    .xfer .one,                   -- 4
    .ifThenElse .sampledNack      -- 5
      { settings := [{ guard := some (.pstateIs .dataExchange), setting := .setP .waitStart }], ending := some .nack }
      { settings := [], ending := some .ok } ]

/-- P_START (R183): permitted in every state (R181). -/
def execPStart (own : Addr) (s : State) : Host.Outcome State Fault Refusal :=
  runCommand .peripheral (encode (.pStart own)) alwaysPermitted (pStartProgram own) s

/-- P_READ (R184): permitted in DATA_EXCHANGE with XDIR = 0 (R181). -/
def execPRead (s : State) : Host.Outcome State Fault Refusal :=
  runCommand .peripheral (encode .pRead) (exchangePhase false) pReadProgram s

/-- P_WRITE (R185): permitted in DATA_EXCHANGE with XDIR = 1 (R181). -/
def execPWrite (d : Byte) (s : State) : Host.Outcome State Fault Refusal :=
  runCommand .peripheral (encode (.pWrite d)) (exchangePhase true) (pWriteProgram d) s

end Sys2Proof.Machine
end

