-- ==== Sys2Proof/Machine/Dispatch.lean ====
section
/-! DEFINITION. One arm per command: the step the command takes part in (30_encoding.md R82). -/

namespace Sys2Proof.Machine

def exec (i : Instr) (s : State) : Host.Outcome State Fault Refusal :=
  match i with
  | .cStart f a => Sys2Proof.Machine.execCStart f a s
  | .cRstart f a => Sys2Proof.Machine.execCRstart f a s
  | .cWrite d => Sys2Proof.Machine.execCWrite d s
  | .cRead more => Sys2Proof.Machine.execCRead more s
  | .cStop => Sys2Proof.Machine.execCStop s
  | .pStart own => Sys2Proof.Machine.execPStart own s
  | .pRead => Sys2Proof.Machine.execPRead s
  | .pWrite d => Sys2Proof.Machine.execPWrite d s

end Sys2Proof.Machine
end

