-- ==== Sys2Proof/Machine/Agents.lean ====
section
/-! DEFINITION. One step of each agent (40_line_primitives.md R100): ENGINE, HOST, PEER and RESET. Each takes the state with
its own event already removed from the schedule. An agent that is not enabled has no step, and its turn passes without
effect (log entry 4). -/

namespace Sys2Proof.Machine

/-- ENGINE's turn (R105): enabled only when BUSY = 1; the operands are CMDR's fields (10_state.md R36). -/
def engineTurn (s : State) : Host.Outcome State Fault Refusal :=
  if s.busy then
    match decode s.cfg.role s.cmdr with
    | .ok i => exec i s
    | .error _ => .fault .noCommand
  else .next s

/-- HOST's turn, `issue(w)` (R104): enabled only when BUSY = 0. A word offered earlier is not accepted and not queued
(R104, R243). A word that is no command of either role is refused here, one of the other role by its own meaning. -/
def hostTurn (w : Word) (s : State) : Host.Outcome State Fault Refusal :=
  if s.busy then .next s
  else
    match decodeWord w with
    | .ok i => exec i s
    | .error _ => .next (lineUpdate (refuseCommand w s))

/-- PEER's turn, `peer(c, d)` (R122): always enabled. -/
def peerTurn (scl sda : Bool) (s : State) : Host.Outcome State Fault Refusal :=
  .next (lineUpdate (setPeer scl sda s))

/-- RESET's turn (R230): always enabled. -/
def resetTurn (s : State) : Host.Outcome State Fault Refusal :=
  .next (resetBlock s)

/-- The turn an event names. -/
def turn (e : Event) (s : State) : Host.Outcome State Fault Refusal :=
  match e with
  | .engine => engineTurn s
  | .host w => hostTurn w s
  | .peer scl sda => peerTurn scl sda s
  | .reset => resetTurn s

/-- Takes the next event off the schedule and gives its agent the turn; with none left it is ENGINE's turn (log entry 1). -/
def nextTurn (s : State) : Host.Outcome State Fault Refusal :=
  match s.sched with
  | [] => engineTurn s
  | e :: rest => turn e { s with sched := rest }

/-- The role an opcode belongs to: "the top opcode bit gives the role" (92_eei_decisions.md D3). -/
def roleOfWord (w : Word) : Role :=
  if w.getLsbD 15 then .peripheral else .controller

/-- The state in which the host is about to offer the word `w` to an idle block of the role `w` belongs to. -/
def offerWord (w : Word) (s : State) : State :=
  { s with
    cfg := { s.cfg with role := roleOfWord w }
    busy := false
    sched := .host w :: s.sched }

end Sys2Proof.Machine
end

