-- ==== Sys2Proof/Machine/Step.lean ====
section
/-! DEFINITION. One step of the machine (40_line_primitives.md R100), and the placing of a command word for the next step. -/

namespace Sys2Proof.Machine

/-- One step: exactly one agent acts (R100). -/
def step (s : State) : Host.Outcome State Fault Refusal :=
  nextTurn s

/-- The block fetches no instructions (20_memory.md R72): a command comes from the host. So a word is placed by making the
host's offer of it the next event, with the block idle and of the word's role; the next step accepts it (log entry 6).
A length other than 16 bits is no command word (30_encoding.md R87), and nothing is placed. -/
def State.withFetchWord (s : State) (nbits w : Nat) : State :=
  if nbits = 16 then offerWord (BitVec.ofNat 16 w) s else s

end Sys2Proof.Machine
end

