-- ==== Sys2Proof/Machine/Assembler.lean ====
section
/-! DEFINITION. The assembler of 30_encoding.md R88 and the pseudo-instruction of R89: a line of assembly, with numbers as
a programmer writes them, to command words. -/

namespace Sys2Proof.Machine

/-- A number as written: decimal, or hexadecimal after `0x` (R88); the digits, most significant first. -/
inductive AsmNumber where
  | decimal (digits : List (Fin 10))
  | hex (digits : List (Fin 16))
  deriving DecidableEq, Repr

/-- The value of a number. -/
def AsmNumber.value : AsmNumber → Nat
  | .decimal digits => digits.foldl (fun acc d => 10 * acc + d.val) 0
  | .hex digits => digits.foldl (fun acc d => 16 * acc + d.val) 0

/-- A line of assembly (R88, R89). `isRead` is `R` (1) or `W` (0), `isAck` is `ACK` (1) or `NACK` (0). -/
inductive AsmLine where
  | cStart (a : AsmNumber) (isRead : Bool)
  | cRstart (a : AsmNumber) (isRead : Bool)
  | cWrite (b : AsmNumber)
  | cRead (isAck : Bool)
  | cStop
  | pStart (a : AsmNumber)
  | pRead
  | pWrite (b : AsmNumber)
  /-- The pseudo-instruction `C_READBUF n` (R89). -/
  | cReadBuf (n : AsmNumber)
  deriving DecidableEq, Repr

/-- "An address operand must be in 0..0x7F and a byte operand in 0..0xFF" (R88); `C_READBUF n` takes n ≥ 1 (R89). -/
def AsmLine.inRange : AsmLine → Bool
  | .cStart a _ => decide (a.value ≤ 0x7F)
  | .cRstart a _ => decide (a.value ≤ 0x7F)
  | .cWrite b => decide (b.value ≤ 0xFF)
  | .cRead _ => true
  | .cStop => true
  | .pStart a => decide (a.value ≤ 0x7F)
  | .pRead => true
  | .pWrite b => decide (b.value ≤ 0xFF)
  | .cReadBuf n => decide (1 ≤ n.value)

/-- The commands of a line whose numbers are in range. `C_READBUF n` is `n - 1` copies of `C_READ ACK`, then one
`C_READ NACK` (R89). -/
def AsmLine.commands : AsmLine → List Instr
  | .cStart a isRead => [.cStart isRead (BitVec.ofNat 7 a.value)]
  | .cRstart a isRead => [.cRstart isRead (BitVec.ofNat 7 a.value)]
  | .cWrite b => [.cWrite (BitVec.ofNat 8 b.value)]
  | .cRead isAck => [.cRead isAck]
  | .cStop => [.cStop]
  | .pStart a => [.pStart (BitVec.ofNat 7 a.value)]
  | .pRead => [.pRead]
  | .pWrite b => [.pWrite (BitVec.ofNat 8 b.value)]
  | .cReadBuf n => List.replicate (n.value - 1) (.cRead true) ++ [.cRead false]

/-- The words of a line; "an assembler refuses a value out of range" (R88). -/
def assemble (l : AsmLine) : Option (List Word) :=
  if l.inRange then some (l.commands.map encode) else none

end Sys2Proof.Machine
end

