-- ==== Sys2Proof/Machine/Observe.lean ====
section
/-! DEFINITION. What the host can read without a step (40_line_primitives.md R121): the response port (20_memory.md R68,
R69) and the observation port (10_state.md R29, R30, R31, R40, R42). -/

namespace Sys2Proof.Machine

/-- A read of the response port, one unit (R68). -/
structure Response where
  result : BitVec 3
  rdata : Byte
  valid : Bool
  deriving DecidableEq, Repr

/-- The response port (R68, R69). -/
def State.response (s : State) : Response :=
  { result := s.result.code, rdata := s.rdata, valid := s.rspValid }

/-- STATUS (R29): START_DET, OVF, a 0, CNT. -/
def State.status (s : State) : Byte :=
  BitVec.ofBool s.startDet ++ BitVec.ofBool s.ovf ++ 0#1 ++ s.cnt

/-- CTRL (R30): START_IE and OVF_IE hardwired 0, ROLE, MATCH_MODE, PCLK_MODE, three 0s. -/
def State.ctrl (s : State) : Byte :=
  0#1 ++ 0#1 ++ BitVec.ofBool (decide (s.cfg.role = .peripheral)) ++
    BitVec.ofBool (decide (s.cfg.matchMode = .addrBits)) ++
    BitVec.ofBool (decide (s.cfg.clockMode = .follow)) ++ 0#3

/-- LINES (R31), bit 7 first: a 0, SDA_OBS, SCL_OBS, DOL, DAT_DIR, DAT_PORT, CLK_DIR, CLK_PORT. -/
def State.lines (s : State) : Byte :=
  0#1 ++ BitVec.ofBool s.sdaObs ++ BitVec.ofBool s.sclObs ++ BitVec.ofBool s.dol ++
    BitVec.ofBool s.datDir ++ BitVec.ofBool s.datPort ++ BitVec.ofBool s.clkDir ++ BitVec.ofBool s.clkPort

/-- Bits 2:0 of FSM (R40): CSTATE in the controller role, PSTATE with bit 2 = 0 in the peripheral role. -/
def State.fsmState (s : State) : BitVec 3 :=
  match s.cfg.role with
  | .controller => s.cstate.code
  | .peripheral => 0#1 ++ s.pstate.code

/-- FSM (R40), bit 7 first: F_ILLEGAL, F_ORDER, RSP_VALID, BUSY, XDIR, then the protocol state. -/
def State.fsm (s : State) : Byte :=
  BitVec.ofBool s.fIllegal ++ BitVec.ofBool s.fOrder ++ BitVec.ofBool s.rspValid ++ BitVec.ofBool s.busy ++
    BitVec.ofBool s.xdir ++ s.fsmState

/-- A read of the observation port (R42). Numbers 12 to 255 read 0. -/
def State.observe (s : State) (number : Byte) : Byte :=
  match number.toNat with
  | 0 => s.status
  | 1 => s.ctrl
  | 2 => s.lines
  | 3 => s.fsm
  | 4 => s.result.code.setWidth 8
  | 5 => s.rdata
  | 6 => s.sr
  | 7 => s.tmp
  | 8 => s.cmdr.extractLsb' 0 8
  | 9 => s.cmdr.extractLsb' 8 8
  | 10 => s.cstep ++ s.xstep
  | 11 => (BitVec.ofBool s.xn).setWidth 8
  | _ => 0#8

end Sys2Proof.Machine
end

