-- ==== Sys2Proof/Safety.lean ====
section
/-! DEFINITION. The terms claims are made in: correct use (60_exceptions.md R206), the end of a run (R220), where a command's
transfers and holds are (R207), the form a state has while the block is idle and while it is busy, the machine's invariant,
and what appears on the wire (20_memory.md R74). -/

namespace Sys2Proof.Machine

/-- Correct use: neither sticky fault bit is set (R206, log entry 13). -/
def State.correctUse (s : State) : Prop :=
  s.fOrder = false ∧ s.fIllegal = false

/-- A host program: "a finite list of command words" (R220). -/
abbrev HostProgram := List Word

/-- The word HOST issues in the next step (R104): the one it offers, where the block is idle. A word offered to a busy block
is not issued (log entry 4). -/
def State.issues (s : State) : Option Word :=
  match s.sched.head? with
  | some (.host w) => if s.busy then none else some w
  | _ => none

/-- The words HOST issues in the next `k` steps, the first one first. -/
def issuedWords : Nat → State → HostProgram
  | 0, _ => []
  | k + 1, s =>
    match step s with
    | .next t => s.issues.toList ++ issuedWords k t
    | _ => []

/-- The conditions of R220, after `k` steps from `s`, in the state `t`: the host has issued exactly the words of `program`, the
last one has finished, and no fault is recorded. They go on holding while only the peer acts. -/
structure RunOver (program : HostProgram) (k : Nat) (s t : State) : Prop where
  reached : Host.Core.run core k s = .next t
  lastWordIssued : issuedWords k s = program
  lastWordFinished : t.busy = false ∧ t.rspValid = true
  noFault : t.correctUse

/-- The run of `program` from `s` ends after `k` steps, and `t` is its final state: "the block's state at that point" (R220), so
`k` is the first number of steps after which the conditions hold. -/
structure RunEnded (program : HostProgram) (k : Nat) (s t : State) : Prop where
  conditions : RunOver program k s t
  first : ∀ j u, j < k → ¬ RunOver program j s u

/-- The result codes a command can end with (60_exceptions.md R201, the column "raised by"). -/
def resultsOf : Instr → List ResultCode
  | .cStart _ _ => [.ok, .startNotDetected, .nack]
  | .cRstart _ _ => [.ok, .startNotDetected, .nack]
  | .cWrite _ => [.ok, .nack]
  | .cRead _ => [.ok]
  | .cStop => [.ok]
  | .pStart _ => [.ok, .addressMismatch]
  | .pRead => [.ok]
  | .pWrite _ => [.ok, .nack]

/-- `program(CMDR.OP)` of R105. -/
def programOf : Instr → List MicroOp
  | .cStart f a => cStartProgram f a
  | .cRstart f a => cRstartProgram f a
  | .cWrite d => cWriteProgram d
  | .cRead more => cReadProgram more
  | .cStop => cStopProgram
  | .pStart own => pStartProgram own
  | .pRead => pReadProgram
  | .pWrite d => pWriteProgram d

/-- The words R85 lists as illegal for a block of role `r`, by the six cases of that rule. -/
def illegalWord (r : Role) (w : Word) : Prop :=
  let op := (w.extractLsb' 12 4).toNat
  let z := w.extractLsb' 8 3
  let f := w.getLsbD 11
  let imm := w.extractLsb' 0 8
  op ∈ [0x0, 0x6, 0x7, 0xB, 0xC, 0xD, 0xE, 0xF] ∨
  z ≠ 0#3 ∨
  (f = true ∧ op ∈ [0x3, 0x5, 0x8, 0x9, 0xA]) ∨
  (imm ≠ 0#8 ∧ op ∈ [0x4, 0x5, 0x9]) ∨
  (imm.getLsbD 7 = true ∧ op ∈ [0x1, 0x2, 0x8]) ∨
  (r = .peripheral ∧ op ∈ [0x1, 0x2, 0x3, 0x4, 0x5]) ∨
  (r = .controller ∧ op ∈ [0x8, 0x9, 0xA])

/-- The protocol order of R151 and R181: in which states a command is permitted. -/
def orderPermits (i : Instr) (s : State) : Bool :=
  match i with
  | .cStart _ _ | .cRstart _ _ | .cStop | .pStart _ => true
  | .cWrite _ => decide (s.cstate = .data) && !s.xdir
  | .cRead _ => decide (s.cstate = .data) && s.xdir
  | .pRead => decide (s.pstate = .dataExchange) && !s.xdir
  | .pWrite _ => decide (s.pstate = .dataExchange) && s.xdir

/-- The XFER steps of the commands, as the rules number them (R152 to R155, R183 to R185). -/
def xferAt (i : Instr) (cstep : Nat) : Option XferCount :=
  match i, cstep with
  | .cStart _ _, 11 => some .eight
  | .cStart _ _, 13 => some .one
  | .cRstart _ _, 10 => some .eight
  | .cRstart _ _, 12 => some .one
  | .cWrite _, 2 => some .eight
  | .cWrite _, 4 => some .one
  | .cRead _, 1 => some .eight
  | .cRead _, 4 => some .one
  | .pStart _, 4 => some .eight
  | .pStart _, 8 => some .one
  | .pRead, 1 => some .eight
  | .pRead, 4 => some .one
  | .pWrite _, 2 => some .eight
  | .pWrite _, 4 => some .one
  | _, _ => none

/-- The block executes the command `i`: it is busy and CMDR holds the word of `i`, a command of its role (R36, R105). -/
def State.runs (s : State) (i : Instr) : Prop :=
  s.busy = true ∧ decode s.cfg.role s.cmdr = .ok i

/-- ENGINE is the agent of the next step: its event is next, or none is left (log entry 1). -/
def State.engineActs (s : State) : Prop :=
  s.sched.head? = none ∨ s.sched.head? = some .engine

/-- The hold points of R207, with the condition each waits for. -/
def holdPoint (i : Instr) (s : State) : Prop :=
  match i, s.cstep.toNat with
  | .cStart _ _, 2 => s.sclObs = false
  | .cRstart _ _, 2 => s.sclObs = false
  | .cStop, 3 => s.sclObs = false
  | .pStart _, 1 => s.startDet = false
  | i, c => xferAt i c ≠ none ∧ s.xstep.toNat = 3 ∧ s.sclObs = false

/-- The command and step that wait for START_DET; every other hold waits for the clock (R124, R207). -/
def waitsForStart (i : Instr) (s : State) : Prop :=
  (∃ own, i = .pStart own) ∧ s.cstep.toNat = 1

/-- The hold point that FOLLOW adds: X2 waits for the clock to be low (R142, log entry 10). -/
def followHold (i : Instr) (s : State) : Prop :=
  s.follows = true ∧ xferAt i s.cstep.toNat ≠ none ∧ s.xstep.toNat = 2 ∧ s.sclObs = true

/-- The observed levels and the output latch are those R60 to R62 and R101 give for the drives. -/
def State.linesSettled (s : State) : Prop :=
  s.sclObs = (s.ownScl && s.envScl) ∧ (s.sclObs = false → s.dol = s.sr.getLsbD 7) ∧
    s.sdaObs = (s.ownSda && s.envSda)

/-- The controller states held between commands (R150). -/
def CState.betweenCommands (c : CState) : Prop :=
  c = .idle ∨ c = .data ∨ c = .waitStop

/-- The peripheral states held between commands (R180). -/
def PState.betweenCommands (p : PState) : Prop :=
  p = .waitStart ∨ p = .dataExchange

/-- The controller state a command holds at a step of its micro-program, where it has set one (R37, R152, R153, R156). -/
def cstateDuring (i : Instr) (cstep : Nat) : Option CState :=
  match i with
  | .cStart _ _ => if cstep = 0 then none else if cstep ≤ 8 then some .start else some .address
  | .cRstart _ _ => if cstep = 0 then none else if cstep ≤ 7 then some .start else some .address
  | .cStop => if cstep = 0 then none else if cstep ≤ 6 then some .stop else some .idle
  | _ => none

/-- The peripheral state P_START holds at a step of its micro-program, where it has set one (R38, R183). -/
def pstateDuring (i : Instr) (cstep : Nat) : Option PState :=
  match i with
  | .pStart _ =>
    if cstep = 0 then none
    else if cstep ≤ 2 then some .waitStart
    else if cstep ≤ 6 then some .matchAddress
    else if cstep ≤ 9 then some .ackAddress
    else some .dataExchange
  | _ => none

/-- The steps before which DAT_LOW has run and DAT_REL has not (R152, R156). -/
def dataForcedLow (i : Instr) (cstep : Nat) : Bool :=
  match i with
  | .cStart _ _ => decide (4 ≤ cstep ∧ cstep ≤ 5)
  | .cStop => decide (2 ≤ cstep ∧ cstep ≤ 4)
  | _ => false

/-- The step from which a command's own CLK_LOW or transfer has left the clock pulled low (R107, R143). -/
def clockLowFrom : Instr → Nat
  | .cStart _ _ => 5
  | .cRstart _ _ => 4
  | .cWrite _ => 1
  | .cRead _ => 2
  | .cStop => 16
  | .pStart _ => 5
  | .pRead => 2
  | .pWrite _ => 1

/-- The bits of a transfer: 1 or 8. -/
def bitsOf : XferCount → Nat
  | .one => 1
  | .eight => 8

/-- The form of a state at an XFER step: XSTEP's range, the course of CNT and OVF (R143 "Counter"), XN, and, where the block
drives the clock, CLK_PORT and the released data pattern at the end (R137). -/
structure TransferForm (n : XferCount) (s : State) : Prop where
  xstepRange : s.xstep.toNat ≤ 8
  fresh : s.xstep.toNat = 0 → s.cnt = 0#5
  beforeRise : s.xstep.toNat = 1 ∨ s.xstep.toNat = 2 →
    s.ovf = false ∧ s.cnt.toNat % 2 = 0 ∧ 2 ≤ s.cnt.toNat ∧ s.cnt.toNat ≤ 2 * bitsOf n
  beforeFall : s.xstep.toNat = 3 ∨ s.xstep.toNat = 4 →
    s.ovf = false ∧ s.cnt.toNat % 2 = 1 ∧ s.cnt.toNat < 2 * bitsOf n
  atTest : s.xstep.toNat = 5 →
    s.ovf = decide (s.cnt = 0#5) ∧ s.cnt.toNat % 2 = 0 ∧ s.cnt.toNat + 2 ≤ 2 * bitsOf n
  done : 6 ≤ s.xstep.toNat → s.ovf = true ∧ s.cnt = 0#5
  length : 1 ≤ s.xstep.toNat → s.xn = isEight n
  clockHigh : s.follows = false → s.xstep.toNat = 3 ∨ s.xstep.toNat = 4 → s.clkPort = true
  clockLow : s.follows = false → 5 ≤ s.xstep.toNat → s.clkPort = false
  released : s.xstep.toNat = 8 → s.sr = 0xFF#8 ∧ (s.follows = false → s.dol = true)

/-- The form of a state at a step that is no XFER step: nothing of a transfer is left over (R143 "Exit state"). -/
structure OutsideTransfer (s : State) : Prop where
  xstepZero : s.xstep = 0#4
  countZero : s.cnt = 0#5
  dataOutput : s.datDir = true
  patternReleased : s.sr = 0xFF#8
  latchReleased : s.follows = false → s.dol = true

/-- The form of a state while the block executes `i`. -/
structure BusyForm (i : Instr) (s : State) : Prop where
  noResponse : s.rspValid = false
  cstepRange : s.cstep.toNat < (programOf i).length
  transfer : ∀ n, xferAt i s.cstep.toNat = some n → TransferForm n s
  noTransfer : xferAt i s.cstep.toNat = none → OutsideTransfer s
  dataPort : s.datPort = !dataForcedLow i s.cstep.toNat
  clockLow : s.follows = false → clockLowFrom i ≤ s.cstep.toNat →
    xferAt i s.cstep.toNat = none ∨ (s.xstep.toNat ≠ 3 ∧ s.xstep.toNat ≠ 4) → s.clkPort = false
  cstateSet : ∀ c, cstateDuring i s.cstep.toNat = some c → s.cstate = c
  cstateKept : cstateDuring i s.cstep.toNat = none → s.cstate.betweenCommands
  pstateSet : ∀ p, pstateDuring i s.cstep.toNat = some p → s.pstate = p
  pstateKept : pstateDuring i s.cstep.toNat = none → s.pstate.betweenCommands

/-- A transaction is open between commands: DATA or WAIT_STOP (R37), DATA_EXCHANGE (R38). -/
def State.inTransaction (s : State) : Prop :=
  match s.cfg.role with
  | .controller => s.cstate = .data ∨ s.cstate = .waitStop
  | .peripheral => s.pstate = .dataExchange

/-- The form of a state while the block is idle (R44 and what the micro-programs leave). -/
structure IdleForm (s : State) : Prop where
  cstepZero : s.cstep = 0#4
  outside : OutsideTransfer s
  dataReleased : s.datPort = true
  cstateBetween : s.cstate.betweenCommands
  pstateBetween : s.pstate.betweenCommands
  clockHeldLow : s.follows = false → s.inTransaction → s.clkPort = false

/-- The machine's invariant. -/
structure Inv (s : State) : Prop where
  settled : s.linesSettled
  clockOutput : s.clkDir = true
  followReleases : s.follows = true → s.clkPort = true
  illegalRecorded : s.result = .illegalCmd → s.fIllegal = true
  idle : s.busy = false → IdleForm s
  busy : s.busy = true → ∃ i, decode s.cfg.role s.cmdr = .ok i ∧ BusyForm i s

/-- Where an XFER step begins a transfer: the one step that clears START_DET (R26, R132). -/
def State.clearsStart (s : State) : Prop :=
  s.engineActs ∧ s.xstep.toNat = 0 ∧ ∃ i, s.runs i ∧ xferAt i s.cstep.toNat ≠ none

/-- An event on the wire (R74): a start condition, a stop condition, or a bit of a transfer (log entry 12). -/
inductive WireEvent where
  | start
  | stop
  | bit (level : Bool)
  deriving DecidableEq, Repr

/-- The step from `s` to `t` is the sampling step X3 of a transfer (R134). -/
def sampledBit (s t : State) : Bool :=
  s.busy && decide (s.xstep.toNat = 3) && decide (t.xstep.toNat = 4)

/-- What one step puts on the wire: a fall of data with the clock high is a start, a rise with the clock high a stop
(00_scope.md R10), and each transferred bit shows the data level at its clock high. -/
def wireEvents (s t : State) : List WireEvent :=
  (if s.sclObs && t.sclObs && s.sdaObs && !t.sdaObs then [.start] else []) ++
  (if s.sclObs && t.sclObs && !s.sdaObs && t.sdaObs then [.stop] else []) ++
  (if sampledBit s t then [.bit s.sdaObs] else [])

/-- What `k` steps put on the wire. -/
def wireTrace : Nat → State → List WireEvent
  | 0, _ => []
  | k + 1, s =>
    match step s with
    | .next t => wireEvents s t ++ wireTrace k t
    | _ => []

/-- `k` turns of ENGINE. -/
def engines (k : Nat) : List Event :=
  List.replicate k .engine

/-- One bit of a transfer with a conformant peer (95_test_vectors.md section 0): it leaves the clock released and presents
`d` before X1, while the clock is low; then X1 to X5. -/
def bitSched (d : Bool) : List Event :=
  .peer true d :: engines 5

/-- A whole transfer in which the peer presents `bits`, first bit first: X0, each bit, then X6 to X8. -/
def transferSched (bits : List Bool) : List Event :=
  .engine :: (bits.flatMap bitSched ++ engines 3)

/-- One bit of a transfer in FOLLOW mode, where the peer toggles the clock (R142, 95_test_vectors.md V-X7): it presents `d` with
the clock low, X1 and X2 run, it releases the clock, X3 samples, it pulls the clock again, X4 and X5 run. -/
def followBitSched (d : Bool) : List Event :=
  [.peer false d, .engine, .engine, .peer true d, .engine, .peer false d, .engine, .engine]

/-- A whole transfer in FOLLOW mode in which the peer presents `bits`, first bit first. -/
def followTransferSched (bits : List Bool) : List Event :=
  .engine :: (bits.flatMap followBitSched ++ engines 3)

/-- A byte's bits in wire order, most significant first (R65). -/
def wireBits (b : Byte) : List Bool :=
  [b.getLsbD 7, b.getLsbD 6, b.getLsbD 5, b.getLsbD 4, b.getLsbD 3, b.getLsbD 2, b.getLsbD 1, b.getLsbD 0]

/-- Runs the machine to the end of its schedule. -/
def runSched (s : State) : Host.Outcome State Fault Refusal :=
  Host.Core.run core s.sched.length s

/-- What the schedule puts on the wire. -/
def schedTrace (s : State) : List WireEvent :=
  wireTrace s.sched.length s

end Sys2Proof.Machine
end

