-- ==== Sys2Proof/Certificates/Slice0/Obligations.lean ====
section
/-! DEFINITION. The statements for the provers, from the numbered rules of spec/. Each docstring names the rule it
formalises; where a clause rests on the model's own choice it names the log entry. Every statement about a state holds for
every schedule `sched` in it, so for every order of the agents' steps and every drive of the peer. A conclusion
`exec i s = .next t` says that the instruction completes its step with exactly the state `t`. -/

section

open Sys2Proof Sys2Proof.Machine

/-! ### Encoding -/

/-- Words written out from the patterns of R82 (95_test_vectors.md section 2 decodes them the same way). -/
def Obligations.SpecWordsDecode : Prop :=
  decode .controller 0b0001000001010000#16 = .ok (.cStart false 0x50#7) ∧
  decode .controller 0b0010100001010000#16 = .ok (.cRstart true 0x50#7) ∧
  decode .controller 0b0011000011111111#16 = .ok (.cWrite 0xFF#8) ∧
  decode .controller 0b0100100000000000#16 = .ok (.cRead true) ∧
  decode .controller 0b0101000000000000#16 = .ok .cStop ∧
  decode .peripheral 0b1000000000101000#16 = .ok (.pStart 0x28#7) ∧
  decode .peripheral 0b1001000000000000#16 = .ok .pRead ∧
  decode .peripheral 0b1010000001011010#16 = .ok (.pWrite 0x5A#8)

/-- Decode and encode are inverse to each other, on every command and on every legal word, and the role check of R84 is the
only thing a role adds. -/
def Obligations.DecodeAndEncodeInverse : Prop :=
  (∀ i, decodeWord (encode i) = .ok i) ∧
  (∀ w i, decodeWord w = .ok i → encode i = w) ∧
  (∀ r i, decode r (encode i) = if i.role = r then .ok i else .error .wrongRole)

/-- R84, R85: decode refuses exactly the words of R85's six cases. -/
def Obligations.IllegalWordsAreTheSixCases : Prop :=
  ∀ r w, (∃ e, decode r w = .error e) ↔ illegalWord r w

/-- R88, R89: how a number is read from its digits, in base 10 or 16, the assembler's words, its range checks, and the
expansion of C_READBUF. That a line is a structure with digit lists is the model's choice (log entry 11). -/
def Obligations.AssemblerTable : Prop :=
  ((AsmNumber.decimal []).value = 0 ∧
    ∀ ds d, (AsmNumber.decimal (ds ++ [d])).value = 10 * (AsmNumber.decimal ds).value + d.val) ∧
  ((AsmNumber.hex []).value = 0 ∧
    ∀ ds d, (AsmNumber.hex (ds ++ [d])).value = 16 * (AsmNumber.hex ds).value + d.val) ∧
  (∀ n isRead, assemble (.cStart n isRead) =
    if n.value ≤ 0x7F then some [BitVec.ofNat 16 (0x1000 + (if isRead then 0x0800 else 0) + n.value)] else none) ∧
  (∀ n isRead, assemble (.cRstart n isRead) =
    if n.value ≤ 0x7F then some [BitVec.ofNat 16 (0x2000 + (if isRead then 0x0800 else 0) + n.value)] else none) ∧
  (∀ n, assemble (.cWrite n) = if n.value ≤ 0xFF then some [BitVec.ofNat 16 (0x3000 + n.value)] else none) ∧
  assemble (.cRead true) = some [0x4800#16] ∧
  assemble (.cRead false) = some [0x4000#16] ∧
  assemble .cStop = some [0x5000#16] ∧
  (∀ n, assemble (.pStart n) = if n.value ≤ 0x7F then some [BitVec.ofNat 16 (0x8000 + n.value)] else none) ∧
  assemble .pRead = some [0x9000#16] ∧
  (∀ n, assemble (.pWrite n) = if n.value ≤ 0xFF then some [BitVec.ofNat 16 (0xA000 + n.value)] else none) ∧
  (∀ n, assemble (.cReadBuf n) =
    if 1 ≤ n.value then some (List.replicate (n.value - 1) 0x4800#16 ++ [0x4000#16]) else none)

/-! ### Operands -/

/-- R66, R157: the address in frame bits 7..1, the direction in bit 0, `(A << 1) | D`, the order of the bits on the wire, and
R157's examples. -/
def Obligations.FramePacking : Prop :=
  (∀ a f, (frame a f).getLsbD 0 = f ∧ ∀ k, k < 7 → (frame a f).getLsbD (k + 1) = a.getLsbD k) ∧
  (∀ a f, (frame a f).toNat = 2 * a.toNat + f.toNat) ∧
  (∀ a f, wireBits (frame a f) =
    [a.getLsbD 6, a.getLsbD 5, a.getLsbD 4, a.getLsbD 3, a.getLsbD 2, a.getLsbD 1, a.getLsbD 0, f]) ∧
  frame 0x50#7 false = 0xA0#8 ∧ frame 0x50#7 true = 0xA1#8

/-- R182: both comparisons, the mode of this hardware, and the two consequences of RAW_BYTE with the rule's examples. -/
def Obligations.AddressMatchModes : Prop :=
  (∀ a own, addressMatch .rawByte a own = true ↔ a.toNat = own.toNat) ∧
  (∀ a own, addressMatch .addrBits a own = true ↔ ∀ k, k < 7 → a.getLsbD (k + 1) = own.getLsbD k) ∧
  (∀ a own, addressMatch .rawByte (frame a false) own = true ∨ addressMatch .rawByte (frame a true) own = true →
    a.toNat ≤ 0x3F) ∧
  (∀ a f own, addressMatch .rawByte (frame a f) own = true → f = own.getLsbD 0) ∧
  Config.initial.matchMode = .rawByte ∧
  addressMatch .rawByte 0x28#8 0x28#7 = true ∧ frame 0x14#7 false = 0x28#8 ∧
  addressMatch .rawByte 0x50#8 0x28#7 = false ∧ frame 0x28#7 false = 0x50#8

/-! ### Accepting a command -/

/-- R151, R181 (with R104 and R84): what an idle block does with a command: it accepts one of its own role, recording an
order fault exactly when the order is not permitted, and refuses one of the other role. -/
def Obligations.IdleBlockAcceptsCommand : Prop :=
  ∀ (i : Instr) (s : State), s.busy = false → s.linesSettled →
    exec i s = .next (
      if i.role = s.cfg.role then
        { s with
          cmdr := encode i
          fOrder := s.fOrder || !orderPermits i s
          rspValid := false
          busy := true
          cstep := 0#4
          xstep := 0#4 }
      else
        { s with cmdr := encode i, result := .illegalCmd, rspValid := true, fIllegal := true })

/-- R104: a word the host offers. While the block is busy it is not accepted (that the turn then passes without effect is
the model's choice, log entry 4); idle, the block refuses an illegal word and accepts a legal one. -/
def Obligations.HostOffersWord : Prop :=
  ∀ (s : State) (w : Word) (rest : List Event), s.sched = .host w :: rest → s.linesSettled →
    (s.busy = true → step s = .next { s with sched := rest }) ∧
    (s.busy = false → ∀ e, decode s.cfg.role w = .error e →
      step s = .next { s with
        sched := rest, cmdr := w, result := .illegalCmd, rspValid := true, fIllegal := true }) ∧
    (s.busy = false → ∀ i, decode s.cfg.role w = .ok i →
      step s = .next { s with
        sched := rest
        cmdr := w
        fOrder := s.fOrder || !orderPermits i s
        rspValid := false
        busy := true
        cstep := 0#4
        xstep := 0#4 })

/-- R85, R205: a word of R85's list, offered to an idle block, changes CMDR, RESULT, RSP_VALID and F_ILLEGAL and nothing
else of the block. -/
def Obligations.IllegalWordRefused : Prop :=
  ∀ (s : State) (w : Word) (rest : List Event), s.sched = .host w :: rest → s.busy = false → s.linesSettled →
    illegalWord s.cfg.role w →
    step s = .next { s with
      sched := rest, cmdr := w, result := .illegalCmd, rspValid := true, fIllegal := true }

/-! ### Steps -/

/-- R100, R105: a step in which ENGINE acts on a busy block is `exec` of the command CMDR holds, a step in which HOST offers
a word to an idle block is `exec` of the command decoded from it, an idle block with no event to come stays as it is, and
`withFetchWord` places a word for the next step. The schedule is the model's own (log entries 1, 4 and 6). -/
def Obligations.StepRunsDecodedCommand : Prop :=
  (∀ (s : State) i, s.sched = [] → s.busy = true → decode s.cfg.role s.cmdr = .ok i → step s = exec i s) ∧
  (∀ (s : State) i rest, s.sched = .engine :: rest → s.busy = true → decode s.cfg.role s.cmdr = .ok i →
    step s = exec i { s with sched := rest }) ∧
  (∀ (s : State) w i rest, s.sched = .host w :: rest → s.busy = false → decodeWord w = .ok i →
    step s = exec i { s with sched := rest }) ∧
  (∀ s : State, s.sched = [] → s.busy = false → step s = .next s) ∧
  (∀ (s : State) (w : Word) i, decodeWord w = .ok i →
    step (s.withFetchWord 16 w.toNat) = exec i { s with cfg := { s.cfg with role := i.role }, busy := false })

/-- R122: a peer step is enabled in every state, writes the peer's drives, and ends with the line update; nothing else of
the block changes. -/
def Obligations.PeerStep : Prop :=
  ∀ (s : State) (c d : Bool) (rest : List Event), s.sched = .peer c d :: rest →
    ∃ t, step s = .next t ∧
      t.sclObs = (!(s.clkDir && !s.clkPort) && c) ∧
      t.dol = (if t.sclObs then s.dol else s.sr.getLsbD 7) ∧
      t.sdaObs = (!(s.datDir && (!s.datPort || !t.dol)) && d) ∧
      t.startDet = (s.startDet || (s.sclObs && t.sclObs && s.sdaObs && !t.sdaObs)) ∧
      t = { s with
        sched := rest
        envScl := c
        envSda := d
        sclObs := t.sclObs
        dol := t.dol
        sdaObs := t.sdaObs
        startDet := t.startDet }

/-- R230 with R46's table: a reset step, in every state, also while a command runs or holds. -/
def Obligations.ResetStep : Prop :=
  ∀ (s : State) (rest : List Event), s.sched = .reset :: rest →
    step s = .next {
      cfg := s.cfg, sched := rest, envScl := s.envScl, envSda := s.envSda
      sr := 0xFF#8, tmp := 0x00#8, rdata := 0x00#8, cmdr := 0x0000#16
      busy := false, cstep := 0#4, xstep := 0#4, xn := false
      startDet := false, ovf := false, cnt := 0#5
      clkDir := true, clkPort := true, datDir := true, datPort := true, dol := true
      sclObs := s.envScl, sdaObs := s.envSda
      cstate := .idle, pstate := .waitStart, xdir := false
      result := .ok, rspValid := false, fOrder := false, fIllegal := false }

/-- R46: the values the table gives in the state after reset, CTRL as it is read (the peer's drives, the configuration's role
and the schedule are the model's choices, log entries 1 to 3, and are not stated). -/
def Obligations.ResetValues : Prop :=
  State.reset.sr = 0xFF#8 ∧ State.reset.tmp = 0x00#8 ∧ State.reset.rdata = 0x00#8 ∧ State.reset.cmdr = 0x0000#16 ∧
  State.reset.busy = false ∧ State.reset.cstep = 0#4 ∧ State.reset.xstep = 0#4 ∧ State.reset.xn = false ∧
  State.reset.startDet = false ∧ State.reset.ovf = false ∧ State.reset.cnt = 0#5 ∧
  State.reset.clkDir = true ∧ State.reset.clkPort = true ∧ State.reset.datDir = true ∧ State.reset.datPort = true ∧
  State.reset.dol = true ∧ State.reset.sclObs = State.reset.envScl ∧ State.reset.sdaObs = State.reset.envSda ∧
  State.reset.cstate = .idle ∧ State.reset.pstate = .waitStart ∧ State.reset.xdir = false ∧
  State.reset.result = .ok ∧ State.reset.rspValid = false ∧ State.reset.fOrder = false ∧ State.reset.fIllegal = false ∧
  State.reset.ctrl.getLsbD 7 = false ∧ State.reset.ctrl.getLsbD 6 = false ∧
  (State.reset.ctrl.getLsbD 5 = true ↔ State.reset.cfg.role = .peripheral) ∧
  (State.reset.ctrl.getLsbD 4 = true ↔ State.reset.cfg.matchMode = .addrBits) ∧
  (State.reset.ctrl.getLsbD 3 = true ↔ State.reset.cfg.clockMode = .follow)

/-! ### The lines, the latch and the start detector -/

/-- R60, R62: after every step, whichever agent took it, each observed level is the AND of the block's own drive and the
peer's. -/
def Obligations.LinesAreWiredAnd : Prop :=
  ∀ s t : State, s.linesSettled → step s = .next t →
    t.sclObs = (!(t.clkDir && !t.clkPort) && t.envScl) ∧
    t.sdaObs = (!(t.datDir && (!t.datPort || !t.dol)) && t.envSda)

/-- R32: after every step the latch shows SR[7] while the clock is low and keeps its value while the clock is high. -/
def Obligations.LatchFollowsWhileClockLow : Prop :=
  ∀ s t : State, s.linesSettled → s.sched.head? ≠ some .reset → step s = .next t →
    (t.sclObs = true → t.dol = s.dol) ∧ (t.sclObs = false → t.dol = t.sr.getLsbD 7)

/-- R102, R26: over a step of any agent but RESET, START_DET is 1 afterwards exactly when it was 1 and the step was not the
X0 of a transfer, or the data line fell with the clock high before and after the step. -/
def Obligations.StartDetectorAndItsClearing : Prop :=
  ∀ s t : State, s.sched.head? ≠ some .reset → step s = .next t →
    (t.startDet = true ↔
      (s.startDet = true ∧ ¬ s.clearsStart) ∨
      (s.sclObs = true ∧ t.sclObs = true ∧ s.sdaObs = true ∧ t.sdaObs = false))

/-- R103: when the peer makes the data line rise with the clock high, nothing changes but the peer's drives and the observed
data level. -/
def Obligations.StopConditionIsSilent : Prop :=
  ∀ (s t : State) (c d : Bool) (rest : List Event), s.linesSettled → s.sched = .peer c d :: rest → step s = .next t →
    s.sclObs = true → t.sclObs = true → s.sdaObs = false → t.sdaObs = true →
    t = { s with sched := rest, envScl := c, envSda := d, sdaObs := true }

/-! ### Holds -/

/-- R207: the engine has no step exactly at the listed hold points, and in FOLLOW at X2 with the clock high (R142); and while
no peer step and no reset comes, however many steps of ENGINE and HOST are tried, the block stays as it is: a hang, with no
timeout. That a step without an enabled agent leaves the block as it is, is the model's form of "no step" (log entry 4), and
that FOLLOW's hold stands beside R207's list is the model's reading (log entry 10). -/
def Obligations.HoldsAndHangs : Prop :=
  ∀ (i : Instr) (s : State), Inv s → s.runs i →
    (exec i s = .next s ↔ holdPoint i s ∨ followHold i s) ∧
    (holdPoint i s ∨ followHold i s → ∀ (k : Nat) (l : List Event), (∀ e ∈ l, e = .engine ∨ ∃ w, e = .host w) →
      Host.Core.run core k { s with sched := l } = .next { s with sched := l.drop k })

/-- R124: a hold on the clock is lifted only by a peer step that releases the clock, P_START's hold on START_DET only by a peer
step after which START_DET = 1, and reset ends any hold. FOLLOW's hold on a high clock (R142) is lifted only by a peer step
that pulls it; that it stands beside R207's list is the model's reading (log entry 10), and that a hold shows as an unchanged
state its form of "no step" (log entry 4). -/
def Obligations.OnlyPeerOrResetLiftsHold : Prop :=
  ∀ (i : Instr) (s t : State), Inv s → s.runs i → holdPoint i s ∨ followHold i s → step s = .next t →
    (∃ rest, s.sched = .reset :: rest ∧ t.busy = false) ∨
    (t.runs i ∧
      (holdPoint i t ∨ followHold i t ∨
        ∃ c d rest, s.sched = .peer c d :: rest ∧
          ((¬ waitsForStart i s ∧ s.sclObs = false ∧ c = true ∧ t.sclObs = true) ∨
           (waitsForStart i s ∧ t.startDet = true) ∨
           (followHold i s ∧ c = false ∧ t.sclObs = false))))

/-- R188, R238: a DRIVE-mode peripheral that waits in P_START with its own clock pull in force waits for ever, whatever the
peer and the host do, until a reset. -/
def Obligations.DriveModeDeadlock : Prop :=
  ∀ (own : Addr) (s : State), Inv s → s.runs (.pStart own) → s.cstep = 1#4 → s.follows = false →
    s.clkPort = false → s.startDet = false →
    ∀ (k : Nat) (l : List Event), (∀ e ∈ l, e ≠ .reset) →
      ∃ t, Host.Core.run core k { s with sched := l } = .next t ∧
        t.runs (.pStart own) ∧ t.cstep = 1#4 ∧ t.startDet = false ∧ t.sclObs = false

/-! ### The transfer -/

/-- R131: the nine steps of a transfer, at every XFER step of every command, where the block drives the clock. That the hold at
X3 shows as an unchanged state is the model's form of "no step" (log entry 4). -/
def Obligations.TransferSteps : Prop :=
  ∀ (i : Instr) (n : XferCount) (s : State), s.busy = true → xferAt i s.cstep.toNat = some n → s.follows = false →
    (s.xstep = 0#4 → exec i s = .next (lineUpdate { s with
      startDet := false, ovf := false, cnt := BitVec.ofNat 5 (2 * bitsOf n), xn := decide (n = .eight), xstep := 1#4 })) ∧
    (s.xstep = 1#4 → exec i s = .next (lineUpdate { s with xstep := 2#4 })) ∧
    (s.xstep = 2#4 → exec i s = .next (lineUpdate { s with clkPort := true, cnt := s.cnt - 1#5, xstep := 3#4 })) ∧
    (s.xstep = 3#4 → s.sclObs = true → exec i s = .next (lineUpdate { s with
      sr := s.sr <<< 1 ||| (BitVec.ofBool s.sdaObs).setWidth 8, xstep := 4#4 })) ∧
    (s.xstep = 3#4 → s.sclObs = false → exec i s = .next s) ∧
    (s.xstep = 4#4 → exec i s = .next (lineUpdate { s with
      clkPort := false, cnt := s.cnt - 1#5, ovf := s.ovf || decide (s.cnt = 1#5), xstep := 5#4 })) ∧
    (s.xstep = 5#4 → exec i s = .next (lineUpdate { s with xstep := if s.ovf then 6#4 else 1#4 })) ∧
    (s.xstep = 6#4 → exec i s = .next (lineUpdate { s with xstep := 7#4 })) ∧
    (s.xstep = 7#4 → exec i s = .next (lineUpdate { s with tmp := s.sr, sr := 0xFF#8, xstep := 8#4 })) ∧
    (s.xstep = 8#4 → exec i s = .next (lineUpdate { s with
      datDir := true, xstep := 0#4, cstep := s.cstep + 1#4 }))

/-- R142: in FOLLOW mode X2 waits for the clock to be low, X2 and X4 leave CLK_PORT alone, P_WRITE's CLK_LOW has no effect,
the other steps are those of R131, and CLK_PORT stays 1. That the holds at X2 and X3 show as an unchanged state is the model's
form of "no step" (log entry 4); X2's hold stands beside R207's list (log entry 10). -/
def Obligations.FollowTransferSteps : Prop :=
  (∀ (i : Instr) (n : XferCount) (s : State), s.busy = true → xferAt i s.cstep.toNat = some n → s.follows = true →
    (s.xstep = 0#4 → exec i s = .next (lineUpdate { s with
      startDet := false, ovf := false, cnt := BitVec.ofNat 5 (2 * bitsOf n), xn := decide (n = .eight), xstep := 1#4 })) ∧
    (s.xstep = 1#4 → exec i s = .next (lineUpdate { s with xstep := 2#4 })) ∧
    (s.xstep = 2#4 → s.sclObs = true → exec i s = .next s) ∧
    (s.xstep = 2#4 → s.sclObs = false → exec i s = .next (lineUpdate { s with cnt := s.cnt - 1#5, xstep := 3#4 })) ∧
    (s.xstep = 3#4 → s.sclObs = true → exec i s = .next (lineUpdate { s with
      sr := s.sr <<< 1 ||| (BitVec.ofBool s.sdaObs).setWidth 8, xstep := 4#4 })) ∧
    (s.xstep = 3#4 → s.sclObs = false → exec i s = .next s) ∧
    (s.xstep = 4#4 → exec i s = .next (lineUpdate { s with
      cnt := s.cnt - 1#5, ovf := s.ovf || decide (s.cnt = 1#5), xstep := 5#4 })) ∧
    (s.xstep = 5#4 → exec i s = .next (lineUpdate { s with xstep := if s.ovf then 6#4 else 1#4 })) ∧
    (s.xstep = 6#4 → exec i s = .next (lineUpdate { s with xstep := 7#4 })) ∧
    (s.xstep = 7#4 → exec i s = .next (lineUpdate { s with tmp := s.sr, sr := 0xFF#8, xstep := 8#4 })) ∧
    (s.xstep = 8#4 → exec i s = .next (lineUpdate { s with
      datDir := true, xstep := 0#4, cstep := s.cstep + 1#4 }))) ∧
  (∀ (d : Byte) (s : State), s.busy = true → s.follows = true → s.cstep = 0#4 →
    exec (.pWrite d) s = .next (lineUpdate { s with cstep := 1#4 })) ∧
  (∀ s t : State, Inv s → s.follows = true → step s = .next t → t.clkPort = true)

/-- R139, R140, R143, R142: an 8-bit transfer that sends SR, clock low at its start. Where the block drives the clock, the peer
never holds it; in FOLLOW mode the peer toggles it, and CLK_PORT is not touched. In both the peer drives the data line with
the bits of `d`; the wire shows, and TMP returns, the AND of both, so SR itself with a passive peer. What counts as an event
on the wire is the model's choice (log entry 12). -/
def Obligations.ByteTransmitted : Prop :=
  (∀ (i : Instr) (d : Byte) (s : State), s.runs i → xferAt i s.cstep.toNat = some .eight → s.xstep = 0#4 →
    s.follows = false → s.clkDir = true → s.clkPort = false → s.datDir = true → s.datPort = true →
    s.sched = transferSched (wireBits d) →
    runSched s = .next { s with
      sched := [], envScl := true, envSda := d.getLsbD 0
      tmp := s.sr &&& d, sr := 0xFF#8
      cstep := s.cstep + 1#4, xn := true
      startDet := false, ovf := true, cnt := 0#5
      dol := true, sclObs := false, sdaObs := d.getLsbD 0 } ∧
    schedTrace s = (wireBits (s.sr &&& d)).map .bit) ∧
  (∀ (i : Instr) (d : Byte) (s : State), s.runs i → xferAt i s.cstep.toNat = some .eight → s.xstep = 0#4 →
    s.follows = true → s.clkPort = true → s.envScl = false → s.datDir = true → s.datPort = true →
    s.sched = followTransferSched (wireBits d) →
    runSched s = .next { s with
      sched := [], envScl := false, envSda := d.getLsbD 0
      tmp := s.sr &&& d, sr := 0xFF#8
      cstep := s.cstep + 1#4, xn := true
      startDet := false, ovf := true, cnt := 0#5
      dol := true, sclObs := false, sdaObs := d.getLsbD 0 } ∧
    schedTrace s = (wireBits (s.sr &&& d)).map .bit)

/-- R140, R142: an 8-bit transfer that receives returns the byte the peer sent, first bit in bit 7, whatever SR held; the clock
is low or high at its start, and where it is low the wire shows exactly the peer's bits. In FOLLOW mode the peer toggles the
clock, and CLK_PORT is not touched. What counts as an event on the wire is the model's choice (log entry 12). -/
def Obligations.ByteReceived : Prop :=
  (∀ (i : Instr) (d : Byte) (s : State), s.runs i → xferAt i s.cstep.toNat = some .eight → s.xstep = 0#4 →
    s.follows = false → s.clkDir = true → s.datDir = false → s.sched = transferSched (wireBits d) →
    ∃ t, runSched s = .next t ∧
      t.tmp = d ∧ t.sr = 0xFF#8 ∧ t.datDir = true ∧ t.clkPort = false ∧ t.dol = true ∧ t.ovf = true ∧ t.cnt = 0#5 ∧
      t.cstep = s.cstep + 1#4 ∧ t.xstep = 0#4 ∧ t.runs i ∧
      (s.clkPort = false → t.startDet = false ∧ schedTrace s = (wireBits d).map .bit)) ∧
  (∀ (i : Instr) (d : Byte) (s : State), s.runs i → xferAt i s.cstep.toNat = some .eight → s.xstep = 0#4 →
    s.follows = true → s.clkPort = true → s.datDir = false → s.sched = followTransferSched (wireBits d) →
    ∃ t, runSched s = .next t ∧
      t.tmp = d ∧ t.sr = 0xFF#8 ∧ t.datDir = true ∧ t.clkPort = true ∧ t.dol = true ∧ t.ovf = true ∧ t.cnt = 0#5 ∧
      t.cstep = s.cstep + 1#4 ∧ t.xstep = 0#4 ∧ t.runs i ∧
      (s.envScl = false → t.startDet = false ∧ schedTrace s = (wireBits d).map .bit))

/-- R141, R142: a 1-bit transfer, clock low at its start, returns SR shifted by the sampled bit: the peer's `d` where the block
listens, the AND of `SR[7]` and `d` where it sends. In FOLLOW mode the peer toggles the clock, and CLK_PORT is not touched.
What counts as an event on the wire is the model's choice (log entry 12). -/
def Obligations.OneBitTransferred : Prop :=
  (∀ (i : Instr) (d : Bool) (s : State), s.runs i → xferAt i s.cstep.toNat = some .one → s.xstep = 0#4 →
    s.follows = false → s.clkDir = true → s.clkPort = false → s.datPort = true → s.sched = transferSched [d] →
    runSched s = .next { s with
      sched := [], envScl := true, envSda := d
      tmp := s.sr.extractLsb' 0 7 ++ BitVec.ofBool (if s.datDir then s.sr.getLsbD 7 && d else d), sr := 0xFF#8
      cstep := s.cstep + 1#4, xn := false
      startDet := false, ovf := true, cnt := 0#5
      datDir := true, dol := true, sclObs := false, sdaObs := d } ∧
    schedTrace s = [.bit (if s.datDir then s.sr.getLsbD 7 && d else d)]) ∧
  (∀ (i : Instr) (d : Bool) (s : State), s.runs i → xferAt i s.cstep.toNat = some .one → s.xstep = 0#4 →
    s.follows = true → s.clkPort = true → s.envScl = false → s.datPort = true → s.sched = followTransferSched [d] →
    runSched s = .next { s with
      sched := [], envScl := false, envSda := d
      tmp := s.sr.extractLsb' 0 7 ++ BitVec.ofBool (if s.datDir then s.sr.getLsbD 7 && d else d), sr := 0xFF#8
      cstep := s.cstep + 1#4, xn := false
      startDet := false, ovf := true, cnt := 0#5
      datDir := true, dol := true, sclObs := false, sdaObs := d } ∧
    schedTrace s = [.bit (if s.datDir then s.sr.getLsbD 7 && d else d)])

/-- R137, R138: where the block drives the clock, capturing and returning leave the data line released by the block. -/
def Obligations.CaptureReleasesData : Prop :=
  ∀ (i : Instr) (n : XferCount) (s : State), Inv s → s.runs i → xferAt i s.cstep.toNat = some n → s.follows = false →
    (s.xstep = 7#4 → ∃ t, exec i s = .next t ∧ t.tmp = s.sr ∧ t.sr = 0xFF#8 ∧ t.dol = true ∧ t.ownSda = true) ∧
    (s.xstep = 8#4 → ∃ t, exec i s = .next t ∧ t.datDir = true ∧ t.xstep = 0#4 ∧ t.cstep = s.cstep + 1#4 ∧
      t.dol = true ∧ t.ownSda = true)

/-! ### The micro-programs, step by step (their XFER steps are in TransferSteps and FollowTransferSteps) -/

/-- R152: every step of C_START but its transfers. -/
def Obligations.CStartSteps : Prop :=
  ∀ (f : Bool) (a : Addr) (s : State), s.busy = true → s.cfg.role = .controller →
    (s.cstep = 0#4 → exec (.cStart f a) s = .next (lineUpdate { s with cstate := .start, cstep := 1#4 })) ∧
    (s.cstep = 1#4 → exec (.cStart f a) s = .next (lineUpdate { s with clkPort := true, cstep := 2#4 })) ∧
    (s.cstep = 2#4 → s.sclObs = true → exec (.cStart f a) s = .next (lineUpdate { s with cstep := 3#4 })) ∧
    (s.cstep = 3#4 → exec (.cStart f a) s = .next (lineUpdate { s with datPort := false, cstep := 4#4 })) ∧
    (s.cstep = 4#4 → exec (.cStart f a) s = .next (lineUpdate { s with clkPort := false, cstep := 5#4 })) ∧
    (s.cstep = 5#4 → exec (.cStart f a) s = .next (lineUpdate { s with datPort := true, cstep := 6#4 })) ∧
    (s.cstep = 6#4 → s.startDet = true → exec (.cStart f a) s = .next (lineUpdate { s with cstep := 7#4 })) ∧
    (s.cstep = 6#4 → s.startDet = false → exec (.cStart f a) s = .next (lineUpdate { s with
      cstate := .idle, result := .startNotDetected, rspValid := true, busy := false, cstep := 0#4, xstep := 0#4 })) ∧
    (s.cstep = 7#4 → exec (.cStart f a) s = .next (lineUpdate { s with clkPort := false, cstep := 8#4 })) ∧
    (s.cstep = 8#4 → exec (.cStart f a) s = .next (lineUpdate { s with cstate := .address, cstep := 9#4 })) ∧
    (s.cstep = 9#4 → exec (.cStart f a) s = .next (lineUpdate { s with xdir := f, cstep := 10#4 })) ∧
    (s.cstep = 10#4 → exec (.cStart f a) s = .next (lineUpdate { s with
      sr := a ++ BitVec.ofBool f, cstep := 11#4 })) ∧
    (s.cstep = 12#4 → exec (.cStart f a) s = .next (lineUpdate { s with datDir := false, cstep := 13#4 })) ∧
    (s.cstep = 14#4 → exec (.cStart f a) s = .next (lineUpdate { s with
      cstate := if s.tmp.getLsbD 0 then .waitStop else .data
      result := if s.tmp.getLsbD 0 then .nack else .ok
      rspValid := true, busy := false, cstep := 0#4, xstep := 0#4 }))

/-- R153: every step of C_RSTART but its transfers. -/
def Obligations.CRstartSteps : Prop :=
  ∀ (f : Bool) (a : Addr) (s : State), s.busy = true → s.cfg.role = .controller →
    (s.cstep = 0#4 → exec (.cRstart f a) s = .next (lineUpdate { s with cstate := .start, cstep := 1#4 })) ∧
    (s.cstep = 1#4 → exec (.cRstart f a) s = .next (lineUpdate { s with clkPort := true, cstep := 2#4 })) ∧
    (s.cstep = 2#4 → s.sclObs = true → exec (.cRstart f a) s = .next (lineUpdate { s with cstep := 3#4 })) ∧
    (s.cstep = 3#4 → exec (.cRstart f a) s = .next (lineUpdate { s with clkPort := false, cstep := 4#4 })) ∧
    (s.cstep = 4#4 → exec (.cRstart f a) s = .next (lineUpdate { s with datPort := true, cstep := 5#4 })) ∧
    (s.cstep = 5#4 → s.startDet = true → exec (.cRstart f a) s = .next (lineUpdate { s with cstep := 6#4 })) ∧
    (s.cstep = 5#4 → s.startDet = false → exec (.cRstart f a) s = .next (lineUpdate { s with
      cstate := .idle, result := .startNotDetected, rspValid := true, busy := false, cstep := 0#4, xstep := 0#4 })) ∧
    (s.cstep = 6#4 → exec (.cRstart f a) s = .next (lineUpdate { s with clkPort := false, cstep := 7#4 })) ∧
    (s.cstep = 7#4 → exec (.cRstart f a) s = .next (lineUpdate { s with cstate := .address, cstep := 8#4 })) ∧
    (s.cstep = 8#4 → exec (.cRstart f a) s = .next (lineUpdate { s with xdir := f, cstep := 9#4 })) ∧
    (s.cstep = 9#4 → exec (.cRstart f a) s = .next (lineUpdate { s with
      sr := a ++ BitVec.ofBool f, cstep := 10#4 })) ∧
    (s.cstep = 11#4 → exec (.cRstart f a) s = .next (lineUpdate { s with datDir := false, cstep := 12#4 })) ∧
    (s.cstep = 13#4 → exec (.cRstart f a) s = .next (lineUpdate { s with
      cstate := if s.tmp.getLsbD 0 then .waitStop else .data
      result := if s.tmp.getLsbD 0 then .nack else .ok
      rspValid := true, busy := false, cstep := 0#4, xstep := 0#4 }))

/-- R154: every step of C_WRITE but its transfers. -/
def Obligations.CWriteSteps : Prop :=
  ∀ (d : Byte) (s : State), s.busy = true → s.cfg.role = .controller →
    (s.cstep = 0#4 → exec (.cWrite d) s = .next (lineUpdate { s with clkPort := false, cstep := 1#4 })) ∧
    (s.cstep = 1#4 → exec (.cWrite d) s = .next (lineUpdate { s with sr := d, cstep := 2#4 })) ∧
    (s.cstep = 3#4 → exec (.cWrite d) s = .next (lineUpdate { s with datDir := false, cstep := 4#4 })) ∧
    (s.cstep = 5#4 → exec (.cWrite d) s = .next (lineUpdate { s with
      cstate := if s.tmp.getLsbD 0 ∧ s.cstate = .data then .waitStop else s.cstate
      result := if s.tmp.getLsbD 0 then .nack else .ok
      rspValid := true, busy := false, cstep := 0#4, xstep := 0#4 }))

/-- R155: every step of C_READ but its transfers. -/
def Obligations.CReadSteps : Prop :=
  ∀ (more : Bool) (s : State), s.busy = true → s.cfg.role = .controller →
    (s.cstep = 0#4 → exec (.cRead more) s = .next (lineUpdate { s with datDir := false, cstep := 1#4 })) ∧
    (s.cstep = 2#4 → exec (.cRead more) s = .next (lineUpdate { s with rdata := s.tmp, cstep := 3#4 })) ∧
    (s.cstep = 3#4 → exec (.cRead more) s = .next (lineUpdate { s with
      sr := if more then 0x00#8 else 0xFF#8, cstep := 4#4 })) ∧
    (s.cstep = 5#4 → exec (.cRead more) s = .next (lineUpdate { s with
      cstate := if more = false ∧ s.cstate = .data then .waitStop else s.cstate
      result := .ok, rspValid := true, busy := false, cstep := 0#4, xstep := 0#4 }))

/-- R156: every step of C_STOP. -/
def Obligations.CStopSteps : Prop :=
  ∀ s : State, s.busy = true → s.cfg.role = .controller →
    (s.cstep = 0#4 → exec .cStop s = .next (lineUpdate { s with cstate := .stop, cstep := 1#4 })) ∧
    (s.cstep = 1#4 → exec .cStop s = .next (lineUpdate { s with datPort := false, cstep := 2#4 })) ∧
    (s.cstep = 2#4 → exec .cStop s = .next (lineUpdate { s with clkPort := true, cstep := 3#4 })) ∧
    (s.cstep = 3#4 → s.sclObs = true → exec .cStop s = .next (lineUpdate { s with cstep := 4#4 })) ∧
    (s.cstep = 4#4 → exec .cStop s = .next (lineUpdate { s with datPort := true, cstep := 5#4 })) ∧
    (s.cstep = 5#4 → exec .cStop s = .next (lineUpdate { s with cstep := 6#4 })) ∧
    (s.cstep = 6#4 → exec .cStop s = .next (lineUpdate { s with cstate := .idle, cstep := 7#4 })) ∧
    (s.cstep = 7#4 → exec .cStop s = .next (lineUpdate { s with
      result := .ok, rspValid := true, busy := false, cstep := 0#4, xstep := 0#4 }))

/-- R183: every step of P_START but its transfers. -/
def Obligations.PStartSteps : Prop :=
  ∀ (own : Addr) (s : State), s.busy = true →
    (s.cstep = 0#4 → exec (.pStart own) s = .next (lineUpdate { s with pstate := .waitStart, cstep := 1#4 })) ∧
    (s.cstep = 1#4 → s.startDet = true → exec (.pStart own) s = .next (lineUpdate { s with cstep := 2#4 })) ∧
    (s.cstep = 2#4 → exec (.pStart own) s = .next (lineUpdate { s with pstate := .matchAddress, cstep := 3#4 })) ∧
    (s.cstep = 3#4 → exec (.pStart own) s = .next (lineUpdate { s with datDir := false, cstep := 4#4 })) ∧
    (s.cstep = 5#4 → exec (.pStart own) s = .next (lineUpdate { s with rdata := s.tmp, cstep := 6#4 })) ∧
    (s.cstep = 6#4 → addressMatch s.cfg.matchMode s.tmp own = true →
      exec (.pStart own) s = .next (lineUpdate { s with
        pstate := .ackAddress, xdir := s.tmp.getLsbD 0, cstep := 7#4 })) ∧
    (s.cstep = 6#4 → addressMatch s.cfg.matchMode s.tmp own = false →
      exec (.pStart own) s = .next (lineUpdate { s with
        pstate := .waitStart, result := .addressMismatch, rspValid := true, busy := false, cstep := 0#4, xstep := 0#4 })) ∧
    (s.cstep = 7#4 → exec (.pStart own) s = .next (lineUpdate { s with sr := 0x00#8, cstep := 8#4 })) ∧
    (s.cstep = 9#4 → exec (.pStart own) s = .next (lineUpdate { s with pstate := .dataExchange, cstep := 10#4 })) ∧
    (s.cstep = 10#4 → exec (.pStart own) s = .next (lineUpdate { s with
      result := .ok, rspValid := true, busy := false, cstep := 0#4, xstep := 0#4 }))

/-- R184: every step of P_READ but its transfers. -/
def Obligations.PReadSteps : Prop :=
  ∀ s : State, s.busy = true →
    (s.cstep = 0#4 → exec .pRead s = .next (lineUpdate { s with datDir := false, cstep := 1#4 })) ∧
    (s.cstep = 2#4 → exec .pRead s = .next (lineUpdate { s with rdata := s.tmp, cstep := 3#4 })) ∧
    (s.cstep = 3#4 → exec .pRead s = .next (lineUpdate { s with sr := 0x00#8, cstep := 4#4 })) ∧
    (s.cstep = 5#4 → exec .pRead s = .next (lineUpdate { s with
      result := .ok, rspValid := true, busy := false, cstep := 0#4, xstep := 0#4 }))

/-- R185: every step of P_WRITE but its transfers (its step 0 in FOLLOW mode is in FollowTransferSteps). -/
def Obligations.PWriteSteps : Prop :=
  ∀ (d : Byte) (s : State), s.busy = true →
    (s.cstep = 0#4 → s.follows = false →
      exec (.pWrite d) s = .next (lineUpdate { s with clkPort := false, cstep := 1#4 })) ∧
    (s.cstep = 1#4 → exec (.pWrite d) s = .next (lineUpdate { s with sr := d, cstep := 2#4 })) ∧
    (s.cstep = 3#4 → exec (.pWrite d) s = .next (lineUpdate { s with datDir := false, cstep := 4#4 })) ∧
    (s.cstep = 5#4 → exec (.pWrite d) s = .next (lineUpdate { s with
      pstate := if s.tmp.getLsbD 0 ∧ s.pstate = .dataExchange then .waitStart else s.pstate
      result := if s.tmp.getLsbD 0 then .nack else .ok
      rspValid := true, busy := false, cstep := 0#4, xstep := 0#4 }))

/-! ### Results -/

/-- R202: the start check of C_START and C_RSTART fails exactly with START_DET = 0, ending the command at once with no frame
sent and CSTATE in IDLE; and C_START meets that when the peer holds the data line low, unless a start was recorded before.
What counts as an event on the wire is the model's choice (log entry 12). -/
def Obligations.StartNotDetectedResult : Prop :=
  (∀ (f : Bool) (a : Addr) (s t : State), s.busy = true →
    (s.cstep = 6#4 ∧ exec (.cStart f a) s = .next t) ∨ (s.cstep = 5#4 ∧ exec (.cRstart f a) s = .next t) →
    (s.startDet = false →
      t.result = .startNotDetected ∧ t.rspValid = true ∧ t.busy = false ∧ t.cstate = .idle ∧
        t.sr = s.sr ∧ t.clkPort = s.clkPort) ∧
    (s.startDet = true → t.busy = true ∧ t.cstep = s.cstep + 1#4)) ∧
  (∀ (f : Bool) (a : Addr) (s : State), Inv s → s.busy = false → s.cfg.role = .controller →
    s.envScl = true → s.envSda = false → s.startDet = false →
    s.sched = .host (encode (.cStart f a)) :: engines 7 →
    ∃ t, runSched s = .next t ∧ t.result = .startNotDetected ∧ t.rspValid = true ∧ t.busy = false ∧
      t.cstate = .idle ∧ t.clkPort = false ∧ t.datPort = true ∧ t.sr = s.sr ∧ t.xdir = s.xdir ∧ schedTrace s = [])

/-- R203: the commands that send a byte end with NACK exactly when the bit sampled after it is 1; the block generates no
stop. -/
def Obligations.NackResult : Prop :=
  ∀ (i : Instr) (s t : State), s.busy = true → exec i s = .next t →
    (∃ f a, i = .cStart f a ∧ s.cstep = 14#4) ∨ (∃ f a, i = .cRstart f a ∧ s.cstep = 13#4) ∨
      (∃ d, i = .cWrite d ∧ s.cstep = 5#4) ∨ (∃ d, i = .pWrite d ∧ s.cstep = 5#4) →
    t.result = (if s.tmp.getLsbD 0 then .nack else .ok) ∧ t.rspValid = true ∧ t.busy = false ∧
      t.clkPort = s.clkPort ∧ t.datPort = s.datPort ∧ t.datDir = s.datDir

/-- R204: P_START ends with ADDRESS_MISMATCH when the captured frame does not match, with no ACK driven: where the block
drives the clock, it leaves the data line released and no further transfer runs. -/
def Obligations.AddressMismatchResult : Prop :=
  ∀ (own : Addr) (s : State), Inv s → s.runs (.pStart own) → s.cstep = 6#4 →
    addressMatch s.cfg.matchMode s.tmp own = false →
    ∃ t, exec (.pStart own) s = .next t ∧ t.result = .addressMismatch ∧ t.rspValid = true ∧ t.busy = false ∧
      t.pstate = .waitStart ∧ t.rdata = s.rdata ∧ t.xdir = s.xdir ∧ t.sr = 0xFF#8 ∧
      (s.follows = false → t.ownSda = true)

/-- R201, R209, R212, R117: a command ends only by its own step or by reset; a command that ends by its own step leaves
RSP_VALID = 1 and one of the results R201 lists for it. -/
def Obligations.CommandResults : Prop :=
  (∀ s t : State, s.busy = true → step s = .next t → t.busy = false →
    s.engineActs ∨ ∃ rest, s.sched = .reset :: rest) ∧
  (∀ (i : Instr) (s t : State), s.runs i → s.engineActs → step s = .next t → t.busy = false →
    t.rspValid = true ∧ t.cstep = 0#4 ∧ t.xstep = 0#4 ∧
      t.result ∈ resultsOf i)

/-! ### Whole commands, from the host's offer to the result -/

/-- C_START from any idle controller state on released lines, with a peer that never holds the clock, drives the frame's bits
with `p` and answers `nack` (R152, R74): the wire shows S, the frame most significant bit first, and the ACK bit. What counts as an
event on the wire is the model's choice (log entry 12). -/
def Obligations.CStartWholeCommand : Prop :=
  ∀ (f : Bool) (a : Addr) (p : Byte) (nack : Bool) (s : State), Inv s → s.busy = false → s.cfg.role = .controller →
    s.envScl = true → s.envSda = true →
    s.sched = .host (encode (.cStart f a)) ::
      (engines 11 ++ transferSched (wireBits p) ++ engines 1 ++ transferSched [nack] ++ engines 1) →
    (∃ t, runSched s = .next t ∧ t.busy = false ∧ t.rspValid = true ∧
      t.result = (if nack then .nack else .ok) ∧ t.cstate = (if nack then .waitStop else .data) ∧ t.xdir = f ∧
      t.cmdr = encode (.cStart f a) ∧ t.rdata = s.rdata ∧ t.sr = 0xFF#8 ∧ t.tmp = (if nack then 0xFF#8 else 0xFE#8) ∧
      t.clkPort = false ∧ t.datPort = true ∧ t.datDir = true ∧ t.startDet = false ∧
      t.fOrder = s.fOrder ∧ t.fIllegal = s.fIllegal) ∧
    schedTrace s = .start :: ((wireBits (frame a f &&& p)).map .bit ++ [.bit nack])

/-- C_RSTART (R153, R237, R245). With no start recorded it ends with START_NOT_DETECTED, sends no frame and puts no start on
the wire; with one recorded it sends the frame without a start of its own. What counts as an event on the wire is the
model's choice (log entry 12). -/
def Obligations.CRstartWholeCommand : Prop :=
  (∀ (f : Bool) (a : Addr) (s : State), Inv s → s.busy = false → s.cfg.role = .controller → s.envScl = true →
    s.startDet = false → s.sched = .host (encode (.cRstart f a)) :: engines 6 →
    (∃ t, runSched s = .next t ∧ t.busy = false ∧ t.rspValid = true ∧ t.result = .startNotDetected ∧
      t.cstate = .idle ∧ t.clkPort = false ∧ t.sr = 0xFF#8 ∧ t.xdir = s.xdir ∧ t.startDet = false) ∧
    schedTrace s = []) ∧
  (∀ (f : Bool) (a : Addr) (p : Byte) (nack : Bool) (s : State), Inv s → s.busy = false → s.cfg.role = .controller →
    s.envScl = true → s.startDet = true →
    s.sched = .host (encode (.cRstart f a)) ::
      (engines 10 ++ transferSched (wireBits p) ++ engines 1 ++ transferSched [nack] ++ engines 1) →
    (∃ t, runSched s = .next t ∧ t.busy = false ∧ t.rspValid = true ∧
      t.result = (if nack then .nack else .ok) ∧ t.cstate = (if nack then .waitStop else .data) ∧ t.xdir = f ∧
      t.rdata = s.rdata ∧ t.clkPort = false ∧ t.startDet = false) ∧
    schedTrace s = (wireBits (frame a f &&& p)).map .bit ++ [.bit nack])

/-- C_WRITE from any idle controller state, in or out of order (R154, R151): the byte's eight bits, then exactly one ACK
bit. What counts as an event on the wire is the model's choice (log entry 12). -/
def Obligations.CWriteWholeCommand : Prop :=
  ∀ (d p : Byte) (nack : Bool) (s : State), Inv s → s.busy = false → s.cfg.role = .controller →
    s.sched = .host (encode (.cWrite d)) ::
      (engines 2 ++ transferSched (wireBits p) ++ engines 1 ++ transferSched [nack] ++ engines 1) →
    (∃ t, runSched s = .next t ∧ t.busy = false ∧ t.rspValid = true ∧ t.result = (if nack then .nack else .ok) ∧
      t.cstate = (if nack ∧ s.cstate = .data then .waitStop else s.cstate) ∧ t.xdir = s.xdir ∧ t.rdata = s.rdata ∧
      t.sr = 0xFF#8 ∧ t.tmp = (if nack then 0xFF#8 else 0xFE#8) ∧ t.clkPort = false ∧ t.datDir = true ∧
      t.fOrder = (s.fOrder || !(decide (s.cstate = .data) && !s.xdir)) ∧ t.fIllegal = s.fIllegal) ∧
    schedTrace s = (wireBits (d &&& p)).map .bit ++ [.bit nack]

/-- C_READ from any idle controller state, in or out of order (R155, R158, R151): RDATA is the byte the peer sent; the ACK
bit is 0 with `more = 1`, and otherwise released, so it reads what the peer drives (`q`). Where the clock is low at the start
the wire shows exactly these nine bits. What counts as an event on the wire is the model's choice (log entry 12). -/
def Obligations.CReadWholeCommand : Prop :=
  ∀ (more : Bool) (p : Byte) (q : Bool) (s : State), Inv s → s.busy = false → s.cfg.role = .controller →
    s.sched = .host (encode (.cRead more)) ::
      (engines 1 ++ transferSched (wireBits p) ++ engines 2 ++ transferSched [q] ++ engines 1) →
    (∃ t, runSched s = .next t ∧ t.busy = false ∧ t.rspValid = true ∧ t.result = .ok ∧ t.rdata = p ∧
      t.cstate = (if more = false ∧ s.cstate = .data then .waitStop else s.cstate) ∧ t.xdir = s.xdir ∧
      t.sr = 0xFF#8 ∧ t.tmp = (if more then 0x00#8 else if q then 0xFF#8 else 0xFE#8) ∧
      t.clkPort = false ∧ t.datDir = true ∧
      t.fOrder = (s.fOrder || !(decide (s.cstate = .data) && s.xdir)) ∧ t.fIllegal = s.fIllegal) ∧
    (s.clkPort = false → schedTrace s = (wireBits p).map .bit ++ [.bit (!more && q)])

/-- C_STOP from any idle controller state with a peer that releases both lines (R156, R240): the wire shows P, after an S of
the block's own where the clock was high, which START_DET records; the block leaves both lines released. What counts as an event on the wire is the
model's choice (log entry 12). -/
def Obligations.CStopWholeCommand : Prop :=
  ∀ s : State, Inv s → s.busy = false → s.cfg.role = .controller → s.envScl = true → s.envSda = true →
    s.sched = .host (encode .cStop) :: engines 8 →
    (∃ t, runSched s = .next t ∧ t.busy = false ∧ t.rspValid = true ∧ t.result = .ok ∧ t.cstate = .idle ∧
      t.clkPort = true ∧ t.datPort = true ∧ t.dol = true ∧ t.sclObs = true ∧ t.sdaObs = true ∧
      t.startDet = (s.startDet || s.clkPort) ∧ t.sr = s.sr ∧ t.tmp = s.tmp ∧ t.rdata = s.rdata ∧ t.ovf = s.ovf ∧
      t.xdir = s.xdir ∧ t.fOrder = s.fOrder ∧ t.fIllegal = s.fIllegal) ∧
    schedTrace s = (if s.clkPort then [.start, .stop] else [.stop])

/-- R162: a C_STOP followed at once by a C_START, with a peer that releases both lines: the block has released both lines in
between, the start check passes, and with a peer that ACKs the frame the C_START succeeds (with `nack` it ends as R152 says).
The wire shows the stop, the start, the frame and the ACK bit. What counts as an event on the wire is the model's choice
(log entry 12). -/
def Obligations.StopThenStart : Prop :=
  ∀ (f : Bool) (a : Addr) (p : Byte) (nack : Bool) (s : State), Inv s → s.busy = false → s.cfg.role = .controller →
    s.envScl = true → s.envSda = true →
    s.sched = .host (encode .cStop) :: (engines 8 ++ .host (encode (.cStart f a)) ::
      (engines 11 ++ transferSched (wireBits p) ++ engines 1 ++ transferSched [nack] ++ engines 1)) →
    (∃ u, Host.Core.run core 9 s = .next u ∧ u.clkPort = true ∧ u.datPort = true ∧ u.dol = true) ∧
    (∃ v, Host.Core.run core 17 s = .next v ∧ v.runs (.cStart f a) ∧ v.cstep = 7#4 ∧ v.startDet = true) ∧
    (∃ t, runSched s = .next t ∧ t.busy = false ∧ t.rspValid = true ∧ t.result = (if nack then .nack else .ok) ∧
      t.cstate = (if nack then .waitStop else .data) ∧ t.xdir = f) ∧
    schedTrace s = (if s.clkPort then [.start, .stop] else [.stop]) ++
      .start :: ((wireBits (frame a f &&& p)).map .bit ++ [.bit nack])

/-- P_START from an idle peripheral with the clock high and no start recorded (R183, R182): the block waits, the peer makes a
start and sends `p`. On a match the block ACKs and is addressed, with the direction of `p`; otherwise it reports the mismatch
and drives no ACK. RDATA is `p` in both cases. In DRIVE mode the block drives the clock, and leaves it low; in FOLLOW mode
(R142), from a data line observed high, the peer toggles it. What counts as an event on the wire is the model's choice (log
entry 12). -/
def Obligations.PStartWholeCommand : Prop :=
  (∀ (own : Addr) (p : Byte) (q : Bool) (s : State), Inv s → s.busy = false → s.cfg.role = .peripheral →
    s.follows = false → s.envScl = true → s.envSda = true → s.clkPort = true → s.startDet = false →
    (addressMatch s.cfg.matchMode p own = true →
      s.sched = .host (encode (.pStart own)) :: .engine :: .peer true false ::
        (engines 3 ++ transferSched (wireBits p) ++ engines 3 ++ transferSched [q] ++ engines 2) →
      (∃ t, runSched s = .next t ∧ t.busy = false ∧ t.rspValid = true ∧ t.result = .ok ∧
        t.pstate = .dataExchange ∧ t.xdir = p.getLsbD 0 ∧ t.rdata = p ∧ t.tmp = 0x00#8 ∧ t.sr = 0xFF#8 ∧
        t.clkPort = false ∧ t.startDet = false ∧ t.fOrder = s.fOrder) ∧
      (p.getLsbD 7 = false → schedTrace s = .start :: ((wireBits p).map .bit ++ [.bit false]))) ∧
    (addressMatch s.cfg.matchMode p own = false →
      s.sched = .host (encode (.pStart own)) :: .engine :: .peer true false ::
        (engines 3 ++ transferSched (wireBits p) ++ engines 2) →
      (∃ t, runSched s = .next t ∧ t.busy = false ∧ t.rspValid = true ∧ t.result = .addressMismatch ∧
        t.pstate = .waitStart ∧ t.xdir = s.xdir ∧ t.rdata = p ∧ t.tmp = p ∧ t.sr = 0xFF#8 ∧ t.ownSda = true ∧
        t.clkPort = false ∧ t.fOrder = s.fOrder) ∧
      (p.getLsbD 7 = false → schedTrace s = .start :: (wireBits p).map .bit))) ∧
  (∀ (own : Addr) (p : Byte) (q : Bool) (s : State), Inv s → s.busy = false → s.follows = true →
    s.envScl = true → s.envSda = true → s.sdaObs = true → s.startDet = false →
    (addressMatch s.cfg.matchMode p own = true →
      s.sched = .host (encode (.pStart own)) :: .engine :: .peer true false ::
        (engines 3 ++ followTransferSched (wireBits p) ++ engines 3 ++ followTransferSched [q] ++ engines 2) →
      (∃ t, runSched s = .next t ∧ t.busy = false ∧ t.rspValid = true ∧ t.result = .ok ∧
        t.pstate = .dataExchange ∧ t.xdir = p.getLsbD 0 ∧ t.rdata = p ∧ t.tmp = 0x00#8 ∧ t.sr = 0xFF#8 ∧
        t.clkPort = true ∧ t.startDet = false ∧ t.fOrder = s.fOrder) ∧
      schedTrace s = .start :: ((wireBits p).map .bit ++ [.bit false])) ∧
    (addressMatch s.cfg.matchMode p own = false →
      s.sched = .host (encode (.pStart own)) :: .engine :: .peer true false ::
        (engines 3 ++ followTransferSched (wireBits p) ++ engines 2) →
      (∃ t, runSched s = .next t ∧ t.busy = false ∧ t.rspValid = true ∧ t.result = .addressMismatch ∧
        t.pstate = .waitStart ∧ t.xdir = s.xdir ∧ t.rdata = p ∧ t.tmp = p ∧ t.sr = 0xFF#8 ∧ t.ownSda = true ∧
        t.clkPort = true ∧ t.fOrder = s.fOrder) ∧
      schedTrace s = .start :: (wireBits p).map .bit))

/-- P_READ from any idle peripheral state, in or out of order (R184, R181): RDATA is the byte the controller sent, and the block
always ACKs. In DRIVE mode the block drives the clock, and leaves it low; in FOLLOW mode (R142) the peer, which holds it low
at the start, toggles it. What counts as an event on the wire is the model's choice (log entry 12). -/
def Obligations.PReadWholeCommand : Prop :=
  (∀ (p : Byte) (q : Bool) (s : State), Inv s → s.busy = false → s.cfg.role = .peripheral → s.follows = false →
    s.sched = .host (encode .pRead) ::
      (engines 1 ++ transferSched (wireBits p) ++ engines 2 ++ transferSched [q] ++ engines 1) →
    (∃ t, runSched s = .next t ∧ t.busy = false ∧ t.rspValid = true ∧ t.result = .ok ∧ t.rdata = p ∧
      t.pstate = s.pstate ∧ t.xdir = s.xdir ∧ t.sr = 0xFF#8 ∧ t.tmp = 0x00#8 ∧ t.clkPort = false ∧
      t.fOrder = (s.fOrder || !(decide (s.pstate = .dataExchange) && !s.xdir)) ∧ t.fIllegal = s.fIllegal) ∧
    (s.clkPort = false → schedTrace s = (wireBits p).map .bit ++ [.bit false])) ∧
  (∀ (p : Byte) (q : Bool) (s : State), Inv s → s.busy = false → s.follows = true → s.envScl = false →
    s.sched = .host (encode .pRead) ::
      (engines 1 ++ followTransferSched (wireBits p) ++ engines 2 ++ followTransferSched [q] ++ engines 1) →
    (∃ t, runSched s = .next t ∧ t.busy = false ∧ t.rspValid = true ∧ t.result = .ok ∧ t.rdata = p ∧
      t.pstate = s.pstate ∧ t.xdir = s.xdir ∧ t.sr = 0xFF#8 ∧ t.tmp = 0x00#8 ∧ t.clkPort = true ∧
      t.fOrder = (s.fOrder || !(decide (s.pstate = .dataExchange) && !s.xdir)) ∧ t.fIllegal = s.fIllegal) ∧
    schedTrace s = (wireBits p).map .bit ++ [.bit false])

/-- P_WRITE from any idle peripheral state, in or out of order (R185, R181): the byte's bits, then exactly one ACK bit. In DRIVE
mode the block drives the clock, and leaves it low; in FOLLOW mode (R142) the peer, which holds it low at the start, toggles
it. What counts as an event on the wire is the model's choice (log entry 12). -/
def Obligations.PWriteWholeCommand : Prop :=
  (∀ (d p : Byte) (nack : Bool) (s : State), Inv s → s.busy = false → s.cfg.role = .peripheral → s.follows = false →
    s.sched = .host (encode (.pWrite d)) ::
      (engines 2 ++ transferSched (wireBits p) ++ engines 1 ++ transferSched [nack] ++ engines 1) →
    (∃ t, runSched s = .next t ∧ t.busy = false ∧ t.rspValid = true ∧ t.result = (if nack then .nack else .ok) ∧
      t.pstate = (if nack ∧ s.pstate = .dataExchange then .waitStart else s.pstate) ∧ t.xdir = s.xdir ∧
      t.rdata = s.rdata ∧ t.sr = 0xFF#8 ∧ t.tmp = (if nack then 0xFF#8 else 0xFE#8) ∧ t.clkPort = false ∧
      t.fOrder = (s.fOrder || !(decide (s.pstate = .dataExchange) && s.xdir)) ∧ t.fIllegal = s.fIllegal) ∧
    schedTrace s = (wireBits (d &&& p)).map .bit ++ [.bit nack]) ∧
  (∀ (d p : Byte) (nack : Bool) (s : State), Inv s → s.busy = false → s.follows = true → s.envScl = false →
    s.sched = .host (encode (.pWrite d)) ::
      (engines 2 ++ followTransferSched (wireBits p) ++ engines 1 ++ followTransferSched [nack] ++ engines 1) →
    (∃ t, runSched s = .next t ∧ t.busy = false ∧ t.rspValid = true ∧ t.result = (if nack then .nack else .ok) ∧
      t.pstate = (if nack ∧ s.pstate = .dataExchange then .waitStart else s.pstate) ∧ t.xdir = s.xdir ∧
      t.rdata = s.rdata ∧ t.sr = 0xFF#8 ∧ t.tmp = (if nack then 0xFF#8 else 0xFE#8) ∧ t.clkPort = true ∧
      t.fOrder = (s.fOrder || !(decide (s.pstate = .dataExchange) && s.xdir)) ∧ t.fIllegal = s.fIllegal) ∧
    schedTrace s = (wireBits (d &&& p)).map .bit ++ [.bit nack])

/-- R220: the run of a host program ends in the step of ENGINE in which the program's last word, a command of the block's role,
finishes: that step goes from a state that executes it to the final state, where CMDR still holds the word and RESULT is one
of the command's codes. A word offered to a busy block is not issued (log entry 4). -/
def Obligations.EndedRunReportsLastWord : Prop :=
  ∀ (program : HostProgram) (w : Word) (k : Nat) (s t : State), RunEnded (program ++ [w]) k s t →
    t.cmdr = w ∧
    ∃ i, decode t.cfg.role w = .ok i ∧ t.result ∈ resultsOf i ∧
      ∃ j u, k = j + 1 ∧ Host.Core.run core j s = .next u ∧ u.runs i ∧ u.cmdr = w ∧ u.engineActs ∧ step u = .next t

/-! ### Frames: what an engine step of a command leaves unchanged ("State written" of each rule). The block has no memory
(R64), so no address is stored to. -/

/-- R152, R153: C_START and C_RSTART write neither RDATA nor any state outside their list. -/
def Obligations.StartCommandsFrame : Prop :=
  ∀ (i : Instr) (s t : State), (∃ f a, i = .cStart f a ∨ i = .cRstart f a) → s.busy = true → exec i s = .next t →
    t.rdata = s.rdata ∧ t.cmdr = s.cmdr ∧ t.pstate = s.pstate ∧ t.clkDir = s.clkDir ∧ t.fOrder = s.fOrder ∧
    t.fIllegal = s.fIllegal ∧ t.cfg = s.cfg ∧ t.envScl = s.envScl ∧ t.envSda = s.envSda ∧ t.sched = s.sched

/-- R154, R185: C_WRITE and P_WRITE write neither RDATA, XDIR, DAT_PORT nor the other role's state. -/
def Obligations.WriteCommandsFrame : Prop :=
  ∀ (i : Instr) (s t : State), (∃ d, i = .cWrite d ∨ i = .pWrite d) → s.busy = true → exec i s = .next t →
    (i.role = .controller → t.pstate = s.pstate) ∧ (i.role = .peripheral → t.cstate = s.cstate) ∧
    t.rdata = s.rdata ∧ t.xdir = s.xdir ∧ t.datPort = s.datPort ∧ t.cmdr = s.cmdr ∧ t.clkDir = s.clkDir ∧
    t.fOrder = s.fOrder ∧ t.fIllegal = s.fIllegal ∧ t.cfg = s.cfg ∧ t.envScl = s.envScl ∧ t.envSda = s.envSda ∧
    t.sched = s.sched

/-- R155, R184: C_READ and P_READ write neither XDIR nor DAT_PORT nor the other role's state, and P_READ not PSTATE. -/
def Obligations.ReadCommandsFrame : Prop :=
  ∀ (i : Instr) (s t : State), ((∃ more, i = .cRead more) ∨ i = .pRead) → s.busy = true → exec i s = .next t →
    (i = .pRead → t.cstate = s.cstate) ∧
    t.pstate = s.pstate ∧ t.xdir = s.xdir ∧ t.datPort = s.datPort ∧ t.cmdr = s.cmdr ∧ t.clkDir = s.clkDir ∧
    t.fOrder = s.fOrder ∧ t.fIllegal = s.fIllegal ∧ t.cfg = s.cfg ∧ t.envScl = s.envScl ∧ t.envSda = s.envSda ∧
    t.sched = s.sched

/-- R156: C_STOP writes neither SR, TMP, RDATA, OVF, CNT, XN, DAT_DIR nor XDIR, and clears no flag. -/
def Obligations.StopCommandFrame : Prop :=
  ∀ s t : State, s.busy = true → exec .cStop s = .next t →
    t.sr = s.sr ∧ t.tmp = s.tmp ∧ t.rdata = s.rdata ∧ t.ovf = s.ovf ∧ t.cnt = s.cnt ∧ t.xn = s.xn ∧
    (s.startDet = true → t.startDet = true) ∧ t.datDir = s.datDir ∧ t.xdir = s.xdir ∧ t.pstate = s.pstate ∧
    t.cmdr = s.cmdr ∧ t.clkDir = s.clkDir ∧ t.fOrder = s.fOrder ∧ t.fIllegal = s.fIllegal ∧ t.cfg = s.cfg ∧
    t.envScl = s.envScl ∧ t.envSda = s.envSda ∧ t.sched = s.sched

/-- R183: P_START writes neither CSTATE nor DAT_PORT nor any state outside its list. -/
def Obligations.PStartFrame : Prop :=
  ∀ (own : Addr) (s t : State), s.busy = true → exec (.pStart own) s = .next t →
    t.cstate = s.cstate ∧ t.datPort = s.datPort ∧ t.cmdr = s.cmdr ∧ t.clkDir = s.clkDir ∧ t.fOrder = s.fOrder ∧
    t.fIllegal = s.fIllegal ∧ t.cfg = s.cfg ∧ t.envScl = s.envScl ∧ t.envSda = s.envSda ∧ t.sched = s.sched

/-! ### Whole-machine rules -/

/-- R213: no step changes the configuration. -/
def Obligations.ConfigurationNeverChanges : Prop :=
  ∀ s t : State, step s = .next t → t.cfg = s.cfg

/-- R41: F_ORDER is set exactly by accepting a command out of order, F_ILLEGAL exactly by refusing an illegal word, and only
reset clears them. -/
def Obligations.StickyFaultBits : Prop :=
  ∀ s t : State, step s = .next t →
    (s.sched.head? ≠ some .reset →
      (t.fOrder = true ↔ s.fOrder = true ∨
        ∃ w rest i, s.sched = .host w :: rest ∧ s.busy = false ∧ decode s.cfg.role w = .ok i ∧
          orderPermits i s = false) ∧
      (t.fIllegal = true ↔ s.fIllegal = true ∨
        ∃ w rest, s.sched = .host w :: rest ∧ s.busy = false ∧ illegalWord s.cfg.role w)) ∧
    (s.sched.head? = some .reset → t.fOrder = false ∧ t.fIllegal = false)

/-- R23: the reads of C_READ and P_READ and P_START's capture, whether or not the frame matches, write TMP to RDATA; and RDATA
changes only by one of these and by reset. -/
def Obligations.RdataWriters : Prop :=
  (∀ s : State, s.engineActs →
    (∃ more, s.runs (.cRead more) ∧ s.cstep = 2#4) ∨ (s.runs .pRead ∧ s.cstep = 2#4) ∨
      (∃ own, s.runs (.pStart own) ∧ s.cstep = 5#4) →
    ∃ t, step s = .next t ∧ t.rdata = s.tmp) ∧
  (∀ s t : State, step s = .next t → t.rdata ≠ s.rdata →
    (∃ rest, s.sched = .reset :: rest) ∨
    (s.engineActs ∧ t.rdata = s.tmp ∧
      ((∃ more, s.runs (.cRead more) ∧ s.cstep = 2#4) ∨ (s.runs .pRead ∧ s.cstep = 2#4) ∨
        (∃ own, s.runs (.pStart own) ∧ s.cstep = 5#4))))

/-- R36, R72, R68: CMDR changes only by reset and by the host's offer to an idle block, to the word offered; and while the
block is idle nothing but such an offer or reset writes RESULT, RDATA or RSP_VALID. -/
def Obligations.CommandAndResponseHeld : Prop :=
  ∀ s t : State, step s = .next t →
    (t.cmdr ≠ s.cmdr →
      (∃ rest, s.sched = .reset :: rest) ∨ (∃ w rest, s.sched = .host w :: rest ∧ s.busy = false ∧ t.cmdr = w)) ∧
    (s.busy = false → s.sched.head? ≠ some .reset → (∀ w, s.sched.head? ≠ some (.host w)) →
      t.result = s.result ∧ t.rdata = s.rdata ∧ t.rspValid = s.rspValid)

/-- R42 with the layouts of R29, R30, R31 and R40 and the values of R37, R38 and R201: what each observation number reads; and
what the response port reads, as one unit (R68, R69). -/
def Obligations.ObservationPort : Prop :=
  (CState.code .idle = 0#3 ∧ CState.code .start = 1#3 ∧ CState.code .address = 2#3 ∧ CState.code .data = 3#3 ∧
    CState.code .stop = 4#3 ∧ CState.code .waitStop = 5#3) ∧
  (PState.code .waitStart = 0#2 ∧ PState.code .matchAddress = 1#2 ∧ PState.code .ackAddress = 2#2 ∧
    PState.code .dataExchange = 3#2) ∧
  (ResultCode.code .ok = 0#3 ∧ ResultCode.code .startNotDetected = 1#3 ∧ ResultCode.code .nack = 2#3 ∧
    ResultCode.code .addressMismatch = 3#3 ∧ ResultCode.code .illegalCmd = 7#3) ∧
  ∀ s : State,
    s.response = { result := s.result.code, rdata := s.rdata, valid := s.rspValid } ∧
    ((s.observe 0).getLsbD 7 = s.startDet ∧ (s.observe 0).getLsbD 6 = s.ovf ∧ (s.observe 0).getLsbD 5 = false ∧
      (s.observe 0).extractLsb' 0 5 = s.cnt) ∧
    ((s.observe 1).getLsbD 7 = false ∧ (s.observe 1).getLsbD 6 = false ∧
      ((s.observe 1).getLsbD 5 = true ↔ s.cfg.role = .peripheral) ∧
      ((s.observe 1).getLsbD 4 = true ↔ s.cfg.matchMode = .addrBits) ∧
      ((s.observe 1).getLsbD 3 = true ↔ s.cfg.clockMode = .follow) ∧ (s.observe 1).extractLsb' 0 3 = 0#3) ∧
    ((s.observe 2).getLsbD 0 = s.clkPort ∧ (s.observe 2).getLsbD 1 = s.clkDir ∧ (s.observe 2).getLsbD 2 = s.datPort ∧
      (s.observe 2).getLsbD 3 = s.datDir ∧ (s.observe 2).getLsbD 4 = s.dol ∧ (s.observe 2).getLsbD 5 = s.sclObs ∧
      (s.observe 2).getLsbD 6 = s.sdaObs ∧ (s.observe 2).getLsbD 7 = false) ∧
    ((s.cfg.role = .controller → (s.observe 3).extractLsb' 0 3 = s.cstate.code) ∧
      (s.cfg.role = .peripheral → (s.observe 3).extractLsb' 0 2 = s.pstate.code ∧ (s.observe 3).getLsbD 2 = false) ∧
      (s.observe 3).getLsbD 3 = s.xdir ∧ (s.observe 3).getLsbD 4 = s.busy ∧ (s.observe 3).getLsbD 5 = s.rspValid ∧
      (s.observe 3).getLsbD 6 = s.fOrder ∧ (s.observe 3).getLsbD 7 = s.fIllegal) ∧
    (s.observe 4).toNat = s.result.code.toNat ∧ s.observe 5 = s.rdata ∧ s.observe 6 = s.sr ∧ s.observe 7 = s.tmp ∧
    s.observe 9 ++ s.observe 8 = s.cmdr ∧
    ((s.observe 10).extractLsb' 4 4 = s.cstep ∧ (s.observe 10).extractLsb' 0 4 = s.xstep) ∧
    (s.observe 11).toNat = s.xn.toNat ∧
    (∀ n : Byte, 12 ≤ n.toNat → s.observe n = 0#8)

/-- The invariant holds after every reset step and in the reset state (R44, R46, R231). -/
def Obligations.InvariantAtReset : Prop :=
  Inv State.reset ∧ ∀ s : State, Inv (resetBlock s)

/-- From every state with the invariant the next step succeeds and keeps it: no run meets a fault or a refusal, a
micro-program never leaves its steps, CNT and OVF keep their course, between commands the lines are as R44 says and the
protocol states are those of R150 and R180, and a clock is left low where R188 says so (R35, R37, R38, R44, R143). -/
def Obligations.EveryStepKeepsInvariant : Prop :=
  ∀ s : State, Inv s → ∃ t, step s = .next t ∧ Inv t

end
end

