-- ==== Sys2Proof/Laws/State.lean ====
section
/-! SUPPORT. One lemma per field per named operation, true by `rfl`, so that no proof unfolds a record update. The line
update's own four fields are in Laws/Lines.lean. -/

namespace Sys2Proof.Machine

@[simp] theorem clkRel_cfg (s : State) : (clkRel s).cfg = s.cfg := rfl
@[simp] theorem clkRel_sched (s : State) : (clkRel s).sched = s.sched := rfl
@[simp] theorem clkRel_envScl (s : State) : (clkRel s).envScl = s.envScl := rfl
@[simp] theorem clkRel_envSda (s : State) : (clkRel s).envSda = s.envSda := rfl
@[simp] theorem clkRel_sr (s : State) : (clkRel s).sr = s.sr := rfl
@[simp] theorem clkRel_tmp (s : State) : (clkRel s).tmp = s.tmp := rfl
@[simp] theorem clkRel_rdata (s : State) : (clkRel s).rdata = s.rdata := rfl
@[simp] theorem clkRel_cmdr (s : State) : (clkRel s).cmdr = s.cmdr := rfl
@[simp] theorem clkRel_busy (s : State) : (clkRel s).busy = s.busy := rfl
@[simp] theorem clkRel_cstep (s : State) : (clkRel s).cstep = s.cstep := rfl
@[simp] theorem clkRel_xstep (s : State) : (clkRel s).xstep = s.xstep := rfl
@[simp] theorem clkRel_xn (s : State) : (clkRel s).xn = s.xn := rfl
@[simp] theorem clkRel_startDet (s : State) : (clkRel s).startDet = s.startDet := rfl
@[simp] theorem clkRel_ovf (s : State) : (clkRel s).ovf = s.ovf := rfl
@[simp] theorem clkRel_cnt (s : State) : (clkRel s).cnt = s.cnt := rfl
@[simp] theorem clkRel_clkDir (s : State) : (clkRel s).clkDir = s.clkDir := rfl
@[simp] theorem clkRel_clkPort (s : State) : (clkRel s).clkPort = (if s.follows then s.clkPort else true) := rfl
@[simp] theorem clkRel_datDir (s : State) : (clkRel s).datDir = s.datDir := rfl
@[simp] theorem clkRel_datPort (s : State) : (clkRel s).datPort = s.datPort := rfl
@[simp] theorem clkRel_dol (s : State) : (clkRel s).dol = s.dol := rfl
@[simp] theorem clkRel_sclObs (s : State) : (clkRel s).sclObs = s.sclObs := rfl
@[simp] theorem clkRel_sdaObs (s : State) : (clkRel s).sdaObs = s.sdaObs := rfl
@[simp] theorem clkRel_cstate (s : State) : (clkRel s).cstate = s.cstate := rfl
@[simp] theorem clkRel_pstate (s : State) : (clkRel s).pstate = s.pstate := rfl
@[simp] theorem clkRel_xdir (s : State) : (clkRel s).xdir = s.xdir := rfl
@[simp] theorem clkRel_result (s : State) : (clkRel s).result = s.result := rfl
@[simp] theorem clkRel_rspValid (s : State) : (clkRel s).rspValid = s.rspValid := rfl
@[simp] theorem clkRel_fOrder (s : State) : (clkRel s).fOrder = s.fOrder := rfl
@[simp] theorem clkRel_fIllegal (s : State) : (clkRel s).fIllegal = s.fIllegal := rfl

@[simp] theorem clkLow_cfg (s : State) : (clkLow s).cfg = s.cfg := rfl
@[simp] theorem clkLow_sched (s : State) : (clkLow s).sched = s.sched := rfl
@[simp] theorem clkLow_envScl (s : State) : (clkLow s).envScl = s.envScl := rfl
@[simp] theorem clkLow_envSda (s : State) : (clkLow s).envSda = s.envSda := rfl
@[simp] theorem clkLow_sr (s : State) : (clkLow s).sr = s.sr := rfl
@[simp] theorem clkLow_tmp (s : State) : (clkLow s).tmp = s.tmp := rfl
@[simp] theorem clkLow_rdata (s : State) : (clkLow s).rdata = s.rdata := rfl
@[simp] theorem clkLow_cmdr (s : State) : (clkLow s).cmdr = s.cmdr := rfl
@[simp] theorem clkLow_busy (s : State) : (clkLow s).busy = s.busy := rfl
@[simp] theorem clkLow_cstep (s : State) : (clkLow s).cstep = s.cstep := rfl
@[simp] theorem clkLow_xstep (s : State) : (clkLow s).xstep = s.xstep := rfl
@[simp] theorem clkLow_xn (s : State) : (clkLow s).xn = s.xn := rfl
@[simp] theorem clkLow_startDet (s : State) : (clkLow s).startDet = s.startDet := rfl
@[simp] theorem clkLow_ovf (s : State) : (clkLow s).ovf = s.ovf := rfl
@[simp] theorem clkLow_cnt (s : State) : (clkLow s).cnt = s.cnt := rfl
@[simp] theorem clkLow_clkDir (s : State) : (clkLow s).clkDir = s.clkDir := rfl
@[simp] theorem clkLow_clkPort (s : State) : (clkLow s).clkPort = (if s.follows then s.clkPort else false) := rfl
@[simp] theorem clkLow_datDir (s : State) : (clkLow s).datDir = s.datDir := rfl
@[simp] theorem clkLow_datPort (s : State) : (clkLow s).datPort = s.datPort := rfl
@[simp] theorem clkLow_dol (s : State) : (clkLow s).dol = s.dol := rfl
@[simp] theorem clkLow_sclObs (s : State) : (clkLow s).sclObs = s.sclObs := rfl
@[simp] theorem clkLow_sdaObs (s : State) : (clkLow s).sdaObs = s.sdaObs := rfl
@[simp] theorem clkLow_cstate (s : State) : (clkLow s).cstate = s.cstate := rfl
@[simp] theorem clkLow_pstate (s : State) : (clkLow s).pstate = s.pstate := rfl
@[simp] theorem clkLow_xdir (s : State) : (clkLow s).xdir = s.xdir := rfl
@[simp] theorem clkLow_result (s : State) : (clkLow s).result = s.result := rfl
@[simp] theorem clkLow_rspValid (s : State) : (clkLow s).rspValid = s.rspValid := rfl
@[simp] theorem clkLow_fOrder (s : State) : (clkLow s).fOrder = s.fOrder := rfl
@[simp] theorem clkLow_fIllegal (s : State) : (clkLow s).fIllegal = s.fIllegal := rfl

@[simp] theorem datLow_cfg (s : State) : (datLow s).cfg = s.cfg := rfl
@[simp] theorem datLow_sched (s : State) : (datLow s).sched = s.sched := rfl
@[simp] theorem datLow_envScl (s : State) : (datLow s).envScl = s.envScl := rfl
@[simp] theorem datLow_envSda (s : State) : (datLow s).envSda = s.envSda := rfl
@[simp] theorem datLow_sr (s : State) : (datLow s).sr = s.sr := rfl
@[simp] theorem datLow_tmp (s : State) : (datLow s).tmp = s.tmp := rfl
@[simp] theorem datLow_rdata (s : State) : (datLow s).rdata = s.rdata := rfl
@[simp] theorem datLow_cmdr (s : State) : (datLow s).cmdr = s.cmdr := rfl
@[simp] theorem datLow_busy (s : State) : (datLow s).busy = s.busy := rfl
@[simp] theorem datLow_cstep (s : State) : (datLow s).cstep = s.cstep := rfl
@[simp] theorem datLow_xstep (s : State) : (datLow s).xstep = s.xstep := rfl
@[simp] theorem datLow_xn (s : State) : (datLow s).xn = s.xn := rfl
@[simp] theorem datLow_startDet (s : State) : (datLow s).startDet = s.startDet := rfl
@[simp] theorem datLow_ovf (s : State) : (datLow s).ovf = s.ovf := rfl
@[simp] theorem datLow_cnt (s : State) : (datLow s).cnt = s.cnt := rfl
@[simp] theorem datLow_clkDir (s : State) : (datLow s).clkDir = s.clkDir := rfl
@[simp] theorem datLow_clkPort (s : State) : (datLow s).clkPort = s.clkPort := rfl
@[simp] theorem datLow_datDir (s : State) : (datLow s).datDir = s.datDir := rfl
@[simp] theorem datLow_datPort (s : State) : (datLow s).datPort = false := rfl
@[simp] theorem datLow_dol (s : State) : (datLow s).dol = s.dol := rfl
@[simp] theorem datLow_sclObs (s : State) : (datLow s).sclObs = s.sclObs := rfl
@[simp] theorem datLow_sdaObs (s : State) : (datLow s).sdaObs = s.sdaObs := rfl
@[simp] theorem datLow_cstate (s : State) : (datLow s).cstate = s.cstate := rfl
@[simp] theorem datLow_pstate (s : State) : (datLow s).pstate = s.pstate := rfl
@[simp] theorem datLow_xdir (s : State) : (datLow s).xdir = s.xdir := rfl
@[simp] theorem datLow_result (s : State) : (datLow s).result = s.result := rfl
@[simp] theorem datLow_rspValid (s : State) : (datLow s).rspValid = s.rspValid := rfl
@[simp] theorem datLow_fOrder (s : State) : (datLow s).fOrder = s.fOrder := rfl
@[simp] theorem datLow_fIllegal (s : State) : (datLow s).fIllegal = s.fIllegal := rfl

@[simp] theorem datRel_cfg (s : State) : (datRel s).cfg = s.cfg := rfl
@[simp] theorem datRel_sched (s : State) : (datRel s).sched = s.sched := rfl
@[simp] theorem datRel_envScl (s : State) : (datRel s).envScl = s.envScl := rfl
@[simp] theorem datRel_envSda (s : State) : (datRel s).envSda = s.envSda := rfl
@[simp] theorem datRel_sr (s : State) : (datRel s).sr = s.sr := rfl
@[simp] theorem datRel_tmp (s : State) : (datRel s).tmp = s.tmp := rfl
@[simp] theorem datRel_rdata (s : State) : (datRel s).rdata = s.rdata := rfl
@[simp] theorem datRel_cmdr (s : State) : (datRel s).cmdr = s.cmdr := rfl
@[simp] theorem datRel_busy (s : State) : (datRel s).busy = s.busy := rfl
@[simp] theorem datRel_cstep (s : State) : (datRel s).cstep = s.cstep := rfl
@[simp] theorem datRel_xstep (s : State) : (datRel s).xstep = s.xstep := rfl
@[simp] theorem datRel_xn (s : State) : (datRel s).xn = s.xn := rfl
@[simp] theorem datRel_startDet (s : State) : (datRel s).startDet = s.startDet := rfl
@[simp] theorem datRel_ovf (s : State) : (datRel s).ovf = s.ovf := rfl
@[simp] theorem datRel_cnt (s : State) : (datRel s).cnt = s.cnt := rfl
@[simp] theorem datRel_clkDir (s : State) : (datRel s).clkDir = s.clkDir := rfl
@[simp] theorem datRel_clkPort (s : State) : (datRel s).clkPort = s.clkPort := rfl
@[simp] theorem datRel_datDir (s : State) : (datRel s).datDir = s.datDir := rfl
@[simp] theorem datRel_datPort (s : State) : (datRel s).datPort = true := rfl
@[simp] theorem datRel_dol (s : State) : (datRel s).dol = s.dol := rfl
@[simp] theorem datRel_sclObs (s : State) : (datRel s).sclObs = s.sclObs := rfl
@[simp] theorem datRel_sdaObs (s : State) : (datRel s).sdaObs = s.sdaObs := rfl
@[simp] theorem datRel_cstate (s : State) : (datRel s).cstate = s.cstate := rfl
@[simp] theorem datRel_pstate (s : State) : (datRel s).pstate = s.pstate := rfl
@[simp] theorem datRel_xdir (s : State) : (datRel s).xdir = s.xdir := rfl
@[simp] theorem datRel_result (s : State) : (datRel s).result = s.result := rfl
@[simp] theorem datRel_rspValid (s : State) : (datRel s).rspValid = s.rspValid := rfl
@[simp] theorem datRel_fOrder (s : State) : (datRel s).fOrder = s.fOrder := rfl
@[simp] theorem datRel_fIllegal (s : State) : (datRel s).fIllegal = s.fIllegal := rfl

@[simp] theorem datIn_cfg (s : State) : (datIn s).cfg = s.cfg := rfl
@[simp] theorem datIn_sched (s : State) : (datIn s).sched = s.sched := rfl
@[simp] theorem datIn_envScl (s : State) : (datIn s).envScl = s.envScl := rfl
@[simp] theorem datIn_envSda (s : State) : (datIn s).envSda = s.envSda := rfl
@[simp] theorem datIn_sr (s : State) : (datIn s).sr = s.sr := rfl
@[simp] theorem datIn_tmp (s : State) : (datIn s).tmp = s.tmp := rfl
@[simp] theorem datIn_rdata (s : State) : (datIn s).rdata = s.rdata := rfl
@[simp] theorem datIn_cmdr (s : State) : (datIn s).cmdr = s.cmdr := rfl
@[simp] theorem datIn_busy (s : State) : (datIn s).busy = s.busy := rfl
@[simp] theorem datIn_cstep (s : State) : (datIn s).cstep = s.cstep := rfl
@[simp] theorem datIn_xstep (s : State) : (datIn s).xstep = s.xstep := rfl
@[simp] theorem datIn_xn (s : State) : (datIn s).xn = s.xn := rfl
@[simp] theorem datIn_startDet (s : State) : (datIn s).startDet = s.startDet := rfl
@[simp] theorem datIn_ovf (s : State) : (datIn s).ovf = s.ovf := rfl
@[simp] theorem datIn_cnt (s : State) : (datIn s).cnt = s.cnt := rfl
@[simp] theorem datIn_clkDir (s : State) : (datIn s).clkDir = s.clkDir := rfl
@[simp] theorem datIn_clkPort (s : State) : (datIn s).clkPort = s.clkPort := rfl
@[simp] theorem datIn_datDir (s : State) : (datIn s).datDir = false := rfl
@[simp] theorem datIn_datPort (s : State) : (datIn s).datPort = s.datPort := rfl
@[simp] theorem datIn_dol (s : State) : (datIn s).dol = s.dol := rfl
@[simp] theorem datIn_sclObs (s : State) : (datIn s).sclObs = s.sclObs := rfl
@[simp] theorem datIn_sdaObs (s : State) : (datIn s).sdaObs = s.sdaObs := rfl
@[simp] theorem datIn_cstate (s : State) : (datIn s).cstate = s.cstate := rfl
@[simp] theorem datIn_pstate (s : State) : (datIn s).pstate = s.pstate := rfl
@[simp] theorem datIn_xdir (s : State) : (datIn s).xdir = s.xdir := rfl
@[simp] theorem datIn_result (s : State) : (datIn s).result = s.result := rfl
@[simp] theorem datIn_rspValid (s : State) : (datIn s).rspValid = s.rspValid := rfl
@[simp] theorem datIn_fOrder (s : State) : (datIn s).fOrder = s.fOrder := rfl
@[simp] theorem datIn_fIllegal (s : State) : (datIn s).fIllegal = s.fIllegal := rfl

@[simp] theorem datOut_cfg (s : State) : (datOut s).cfg = s.cfg := rfl
@[simp] theorem datOut_sched (s : State) : (datOut s).sched = s.sched := rfl
@[simp] theorem datOut_envScl (s : State) : (datOut s).envScl = s.envScl := rfl
@[simp] theorem datOut_envSda (s : State) : (datOut s).envSda = s.envSda := rfl
@[simp] theorem datOut_sr (s : State) : (datOut s).sr = s.sr := rfl
@[simp] theorem datOut_tmp (s : State) : (datOut s).tmp = s.tmp := rfl
@[simp] theorem datOut_rdata (s : State) : (datOut s).rdata = s.rdata := rfl
@[simp] theorem datOut_cmdr (s : State) : (datOut s).cmdr = s.cmdr := rfl
@[simp] theorem datOut_busy (s : State) : (datOut s).busy = s.busy := rfl
@[simp] theorem datOut_cstep (s : State) : (datOut s).cstep = s.cstep := rfl
@[simp] theorem datOut_xstep (s : State) : (datOut s).xstep = s.xstep := rfl
@[simp] theorem datOut_xn (s : State) : (datOut s).xn = s.xn := rfl
@[simp] theorem datOut_startDet (s : State) : (datOut s).startDet = s.startDet := rfl
@[simp] theorem datOut_ovf (s : State) : (datOut s).ovf = s.ovf := rfl
@[simp] theorem datOut_cnt (s : State) : (datOut s).cnt = s.cnt := rfl
@[simp] theorem datOut_clkDir (s : State) : (datOut s).clkDir = s.clkDir := rfl
@[simp] theorem datOut_clkPort (s : State) : (datOut s).clkPort = s.clkPort := rfl
@[simp] theorem datOut_datDir (s : State) : (datOut s).datDir = true := rfl
@[simp] theorem datOut_datPort (s : State) : (datOut s).datPort = s.datPort := rfl
@[simp] theorem datOut_dol (s : State) : (datOut s).dol = s.dol := rfl
@[simp] theorem datOut_sclObs (s : State) : (datOut s).sclObs = s.sclObs := rfl
@[simp] theorem datOut_sdaObs (s : State) : (datOut s).sdaObs = s.sdaObs := rfl
@[simp] theorem datOut_cstate (s : State) : (datOut s).cstate = s.cstate := rfl
@[simp] theorem datOut_pstate (s : State) : (datOut s).pstate = s.pstate := rfl
@[simp] theorem datOut_xdir (s : State) : (datOut s).xdir = s.xdir := rfl
@[simp] theorem datOut_result (s : State) : (datOut s).result = s.result := rfl
@[simp] theorem datOut_rspValid (s : State) : (datOut s).rspValid = s.rspValid := rfl
@[simp] theorem datOut_fOrder (s : State) : (datOut s).fOrder = s.fOrder := rfl
@[simp] theorem datOut_fIllegal (s : State) : (datOut s).fIllegal = s.fIllegal := rfl

@[simp] theorem loadSr_cfg (v : Byte) (s : State) : (loadSr v s).cfg = s.cfg := rfl
@[simp] theorem loadSr_sched (v : Byte) (s : State) : (loadSr v s).sched = s.sched := rfl
@[simp] theorem loadSr_envScl (v : Byte) (s : State) : (loadSr v s).envScl = s.envScl := rfl
@[simp] theorem loadSr_envSda (v : Byte) (s : State) : (loadSr v s).envSda = s.envSda := rfl
@[simp] theorem loadSr_sr (v : Byte) (s : State) : (loadSr v s).sr = v := rfl
@[simp] theorem loadSr_tmp (v : Byte) (s : State) : (loadSr v s).tmp = s.tmp := rfl
@[simp] theorem loadSr_rdata (v : Byte) (s : State) : (loadSr v s).rdata = s.rdata := rfl
@[simp] theorem loadSr_cmdr (v : Byte) (s : State) : (loadSr v s).cmdr = s.cmdr := rfl
@[simp] theorem loadSr_busy (v : Byte) (s : State) : (loadSr v s).busy = s.busy := rfl
@[simp] theorem loadSr_cstep (v : Byte) (s : State) : (loadSr v s).cstep = s.cstep := rfl
@[simp] theorem loadSr_xstep (v : Byte) (s : State) : (loadSr v s).xstep = s.xstep := rfl
@[simp] theorem loadSr_xn (v : Byte) (s : State) : (loadSr v s).xn = s.xn := rfl
@[simp] theorem loadSr_startDet (v : Byte) (s : State) : (loadSr v s).startDet = s.startDet := rfl
@[simp] theorem loadSr_ovf (v : Byte) (s : State) : (loadSr v s).ovf = s.ovf := rfl
@[simp] theorem loadSr_cnt (v : Byte) (s : State) : (loadSr v s).cnt = s.cnt := rfl
@[simp] theorem loadSr_clkDir (v : Byte) (s : State) : (loadSr v s).clkDir = s.clkDir := rfl
@[simp] theorem loadSr_clkPort (v : Byte) (s : State) : (loadSr v s).clkPort = s.clkPort := rfl
@[simp] theorem loadSr_datDir (v : Byte) (s : State) : (loadSr v s).datDir = s.datDir := rfl
@[simp] theorem loadSr_datPort (v : Byte) (s : State) : (loadSr v s).datPort = s.datPort := rfl
@[simp] theorem loadSr_dol (v : Byte) (s : State) : (loadSr v s).dol = s.dol := rfl
@[simp] theorem loadSr_sclObs (v : Byte) (s : State) : (loadSr v s).sclObs = s.sclObs := rfl
@[simp] theorem loadSr_sdaObs (v : Byte) (s : State) : (loadSr v s).sdaObs = s.sdaObs := rfl
@[simp] theorem loadSr_cstate (v : Byte) (s : State) : (loadSr v s).cstate = s.cstate := rfl
@[simp] theorem loadSr_pstate (v : Byte) (s : State) : (loadSr v s).pstate = s.pstate := rfl
@[simp] theorem loadSr_xdir (v : Byte) (s : State) : (loadSr v s).xdir = s.xdir := rfl
@[simp] theorem loadSr_result (v : Byte) (s : State) : (loadSr v s).result = s.result := rfl
@[simp] theorem loadSr_rspValid (v : Byte) (s : State) : (loadSr v s).rspValid = s.rspValid := rfl
@[simp] theorem loadSr_fOrder (v : Byte) (s : State) : (loadSr v s).fOrder = s.fOrder := rfl
@[simp] theorem loadSr_fIllegal (v : Byte) (s : State) : (loadSr v s).fIllegal = s.fIllegal := rfl

@[simp] theorem saveRdata_cfg (s : State) : (saveRdata s).cfg = s.cfg := rfl
@[simp] theorem saveRdata_sched (s : State) : (saveRdata s).sched = s.sched := rfl
@[simp] theorem saveRdata_envScl (s : State) : (saveRdata s).envScl = s.envScl := rfl
@[simp] theorem saveRdata_envSda (s : State) : (saveRdata s).envSda = s.envSda := rfl
@[simp] theorem saveRdata_sr (s : State) : (saveRdata s).sr = s.sr := rfl
@[simp] theorem saveRdata_tmp (s : State) : (saveRdata s).tmp = s.tmp := rfl
@[simp] theorem saveRdata_rdata (s : State) : (saveRdata s).rdata = s.tmp := rfl
@[simp] theorem saveRdata_cmdr (s : State) : (saveRdata s).cmdr = s.cmdr := rfl
@[simp] theorem saveRdata_busy (s : State) : (saveRdata s).busy = s.busy := rfl
@[simp] theorem saveRdata_cstep (s : State) : (saveRdata s).cstep = s.cstep := rfl
@[simp] theorem saveRdata_xstep (s : State) : (saveRdata s).xstep = s.xstep := rfl
@[simp] theorem saveRdata_xn (s : State) : (saveRdata s).xn = s.xn := rfl
@[simp] theorem saveRdata_startDet (s : State) : (saveRdata s).startDet = s.startDet := rfl
@[simp] theorem saveRdata_ovf (s : State) : (saveRdata s).ovf = s.ovf := rfl
@[simp] theorem saveRdata_cnt (s : State) : (saveRdata s).cnt = s.cnt := rfl
@[simp] theorem saveRdata_clkDir (s : State) : (saveRdata s).clkDir = s.clkDir := rfl
@[simp] theorem saveRdata_clkPort (s : State) : (saveRdata s).clkPort = s.clkPort := rfl
@[simp] theorem saveRdata_datDir (s : State) : (saveRdata s).datDir = s.datDir := rfl
@[simp] theorem saveRdata_datPort (s : State) : (saveRdata s).datPort = s.datPort := rfl
@[simp] theorem saveRdata_dol (s : State) : (saveRdata s).dol = s.dol := rfl
@[simp] theorem saveRdata_sclObs (s : State) : (saveRdata s).sclObs = s.sclObs := rfl
@[simp] theorem saveRdata_sdaObs (s : State) : (saveRdata s).sdaObs = s.sdaObs := rfl
@[simp] theorem saveRdata_cstate (s : State) : (saveRdata s).cstate = s.cstate := rfl
@[simp] theorem saveRdata_pstate (s : State) : (saveRdata s).pstate = s.pstate := rfl
@[simp] theorem saveRdata_xdir (s : State) : (saveRdata s).xdir = s.xdir := rfl
@[simp] theorem saveRdata_result (s : State) : (saveRdata s).result = s.result := rfl
@[simp] theorem saveRdata_rspValid (s : State) : (saveRdata s).rspValid = s.rspValid := rfl
@[simp] theorem saveRdata_fOrder (s : State) : (saveRdata s).fOrder = s.fOrder := rfl
@[simp] theorem saveRdata_fIllegal (s : State) : (saveRdata s).fIllegal = s.fIllegal := rfl

@[simp] theorem setC_cfg (c : CState) (s : State) : (setC c s).cfg = s.cfg := rfl
@[simp] theorem setC_sched (c : CState) (s : State) : (setC c s).sched = s.sched := rfl
@[simp] theorem setC_envScl (c : CState) (s : State) : (setC c s).envScl = s.envScl := rfl
@[simp] theorem setC_envSda (c : CState) (s : State) : (setC c s).envSda = s.envSda := rfl
@[simp] theorem setC_sr (c : CState) (s : State) : (setC c s).sr = s.sr := rfl
@[simp] theorem setC_tmp (c : CState) (s : State) : (setC c s).tmp = s.tmp := rfl
@[simp] theorem setC_rdata (c : CState) (s : State) : (setC c s).rdata = s.rdata := rfl
@[simp] theorem setC_cmdr (c : CState) (s : State) : (setC c s).cmdr = s.cmdr := rfl
@[simp] theorem setC_busy (c : CState) (s : State) : (setC c s).busy = s.busy := rfl
@[simp] theorem setC_cstep (c : CState) (s : State) : (setC c s).cstep = s.cstep := rfl
@[simp] theorem setC_xstep (c : CState) (s : State) : (setC c s).xstep = s.xstep := rfl
@[simp] theorem setC_xn (c : CState) (s : State) : (setC c s).xn = s.xn := rfl
@[simp] theorem setC_startDet (c : CState) (s : State) : (setC c s).startDet = s.startDet := rfl
@[simp] theorem setC_ovf (c : CState) (s : State) : (setC c s).ovf = s.ovf := rfl
@[simp] theorem setC_cnt (c : CState) (s : State) : (setC c s).cnt = s.cnt := rfl
@[simp] theorem setC_clkDir (c : CState) (s : State) : (setC c s).clkDir = s.clkDir := rfl
@[simp] theorem setC_clkPort (c : CState) (s : State) : (setC c s).clkPort = s.clkPort := rfl
@[simp] theorem setC_datDir (c : CState) (s : State) : (setC c s).datDir = s.datDir := rfl
@[simp] theorem setC_datPort (c : CState) (s : State) : (setC c s).datPort = s.datPort := rfl
@[simp] theorem setC_dol (c : CState) (s : State) : (setC c s).dol = s.dol := rfl
@[simp] theorem setC_sclObs (c : CState) (s : State) : (setC c s).sclObs = s.sclObs := rfl
@[simp] theorem setC_sdaObs (c : CState) (s : State) : (setC c s).sdaObs = s.sdaObs := rfl
@[simp] theorem setC_cstate (c : CState) (s : State) : (setC c s).cstate = c := rfl
@[simp] theorem setC_pstate (c : CState) (s : State) : (setC c s).pstate = s.pstate := rfl
@[simp] theorem setC_xdir (c : CState) (s : State) : (setC c s).xdir = s.xdir := rfl
@[simp] theorem setC_result (c : CState) (s : State) : (setC c s).result = s.result := rfl
@[simp] theorem setC_rspValid (c : CState) (s : State) : (setC c s).rspValid = s.rspValid := rfl
@[simp] theorem setC_fOrder (c : CState) (s : State) : (setC c s).fOrder = s.fOrder := rfl
@[simp] theorem setC_fIllegal (c : CState) (s : State) : (setC c s).fIllegal = s.fIllegal := rfl

@[simp] theorem setP_cfg (p : PState) (s : State) : (setP p s).cfg = s.cfg := rfl
@[simp] theorem setP_sched (p : PState) (s : State) : (setP p s).sched = s.sched := rfl
@[simp] theorem setP_envScl (p : PState) (s : State) : (setP p s).envScl = s.envScl := rfl
@[simp] theorem setP_envSda (p : PState) (s : State) : (setP p s).envSda = s.envSda := rfl
@[simp] theorem setP_sr (p : PState) (s : State) : (setP p s).sr = s.sr := rfl
@[simp] theorem setP_tmp (p : PState) (s : State) : (setP p s).tmp = s.tmp := rfl
@[simp] theorem setP_rdata (p : PState) (s : State) : (setP p s).rdata = s.rdata := rfl
@[simp] theorem setP_cmdr (p : PState) (s : State) : (setP p s).cmdr = s.cmdr := rfl
@[simp] theorem setP_busy (p : PState) (s : State) : (setP p s).busy = s.busy := rfl
@[simp] theorem setP_cstep (p : PState) (s : State) : (setP p s).cstep = s.cstep := rfl
@[simp] theorem setP_xstep (p : PState) (s : State) : (setP p s).xstep = s.xstep := rfl
@[simp] theorem setP_xn (p : PState) (s : State) : (setP p s).xn = s.xn := rfl
@[simp] theorem setP_startDet (p : PState) (s : State) : (setP p s).startDet = s.startDet := rfl
@[simp] theorem setP_ovf (p : PState) (s : State) : (setP p s).ovf = s.ovf := rfl
@[simp] theorem setP_cnt (p : PState) (s : State) : (setP p s).cnt = s.cnt := rfl
@[simp] theorem setP_clkDir (p : PState) (s : State) : (setP p s).clkDir = s.clkDir := rfl
@[simp] theorem setP_clkPort (p : PState) (s : State) : (setP p s).clkPort = s.clkPort := rfl
@[simp] theorem setP_datDir (p : PState) (s : State) : (setP p s).datDir = s.datDir := rfl
@[simp] theorem setP_datPort (p : PState) (s : State) : (setP p s).datPort = s.datPort := rfl
@[simp] theorem setP_dol (p : PState) (s : State) : (setP p s).dol = s.dol := rfl
@[simp] theorem setP_sclObs (p : PState) (s : State) : (setP p s).sclObs = s.sclObs := rfl
@[simp] theorem setP_sdaObs (p : PState) (s : State) : (setP p s).sdaObs = s.sdaObs := rfl
@[simp] theorem setP_cstate (p : PState) (s : State) : (setP p s).cstate = s.cstate := rfl
@[simp] theorem setP_pstate (p : PState) (s : State) : (setP p s).pstate = p := rfl
@[simp] theorem setP_xdir (p : PState) (s : State) : (setP p s).xdir = s.xdir := rfl
@[simp] theorem setP_result (p : PState) (s : State) : (setP p s).result = s.result := rfl
@[simp] theorem setP_rspValid (p : PState) (s : State) : (setP p s).rspValid = s.rspValid := rfl
@[simp] theorem setP_fOrder (p : PState) (s : State) : (setP p s).fOrder = s.fOrder := rfl
@[simp] theorem setP_fIllegal (p : PState) (s : State) : (setP p s).fIllegal = s.fIllegal := rfl

@[simp] theorem setDir_cfg (b : Bool) (s : State) : (setDir b s).cfg = s.cfg := rfl
@[simp] theorem setDir_sched (b : Bool) (s : State) : (setDir b s).sched = s.sched := rfl
@[simp] theorem setDir_envScl (b : Bool) (s : State) : (setDir b s).envScl = s.envScl := rfl
@[simp] theorem setDir_envSda (b : Bool) (s : State) : (setDir b s).envSda = s.envSda := rfl
@[simp] theorem setDir_sr (b : Bool) (s : State) : (setDir b s).sr = s.sr := rfl
@[simp] theorem setDir_tmp (b : Bool) (s : State) : (setDir b s).tmp = s.tmp := rfl
@[simp] theorem setDir_rdata (b : Bool) (s : State) : (setDir b s).rdata = s.rdata := rfl
@[simp] theorem setDir_cmdr (b : Bool) (s : State) : (setDir b s).cmdr = s.cmdr := rfl
@[simp] theorem setDir_busy (b : Bool) (s : State) : (setDir b s).busy = s.busy := rfl
@[simp] theorem setDir_cstep (b : Bool) (s : State) : (setDir b s).cstep = s.cstep := rfl
@[simp] theorem setDir_xstep (b : Bool) (s : State) : (setDir b s).xstep = s.xstep := rfl
@[simp] theorem setDir_xn (b : Bool) (s : State) : (setDir b s).xn = s.xn := rfl
@[simp] theorem setDir_startDet (b : Bool) (s : State) : (setDir b s).startDet = s.startDet := rfl
@[simp] theorem setDir_ovf (b : Bool) (s : State) : (setDir b s).ovf = s.ovf := rfl
@[simp] theorem setDir_cnt (b : Bool) (s : State) : (setDir b s).cnt = s.cnt := rfl
@[simp] theorem setDir_clkDir (b : Bool) (s : State) : (setDir b s).clkDir = s.clkDir := rfl
@[simp] theorem setDir_clkPort (b : Bool) (s : State) : (setDir b s).clkPort = s.clkPort := rfl
@[simp] theorem setDir_datDir (b : Bool) (s : State) : (setDir b s).datDir = s.datDir := rfl
@[simp] theorem setDir_datPort (b : Bool) (s : State) : (setDir b s).datPort = s.datPort := rfl
@[simp] theorem setDir_dol (b : Bool) (s : State) : (setDir b s).dol = s.dol := rfl
@[simp] theorem setDir_sclObs (b : Bool) (s : State) : (setDir b s).sclObs = s.sclObs := rfl
@[simp] theorem setDir_sdaObs (b : Bool) (s : State) : (setDir b s).sdaObs = s.sdaObs := rfl
@[simp] theorem setDir_cstate (b : Bool) (s : State) : (setDir b s).cstate = s.cstate := rfl
@[simp] theorem setDir_pstate (b : Bool) (s : State) : (setDir b s).pstate = s.pstate := rfl
@[simp] theorem setDir_xdir (b : Bool) (s : State) : (setDir b s).xdir = b := rfl
@[simp] theorem setDir_result (b : Bool) (s : State) : (setDir b s).result = s.result := rfl
@[simp] theorem setDir_rspValid (b : Bool) (s : State) : (setDir b s).rspValid = s.rspValid := rfl
@[simp] theorem setDir_fOrder (b : Bool) (s : State) : (setDir b s).fOrder = s.fOrder := rfl
@[simp] theorem setDir_fIllegal (b : Bool) (s : State) : (setDir b s).fIllegal = s.fIllegal := rfl

@[simp] theorem advance_cfg (s : State) : (advance s).cfg = s.cfg := rfl
@[simp] theorem advance_sched (s : State) : (advance s).sched = s.sched := rfl
@[simp] theorem advance_envScl (s : State) : (advance s).envScl = s.envScl := rfl
@[simp] theorem advance_envSda (s : State) : (advance s).envSda = s.envSda := rfl
@[simp] theorem advance_sr (s : State) : (advance s).sr = s.sr := rfl
@[simp] theorem advance_tmp (s : State) : (advance s).tmp = s.tmp := rfl
@[simp] theorem advance_rdata (s : State) : (advance s).rdata = s.rdata := rfl
@[simp] theorem advance_cmdr (s : State) : (advance s).cmdr = s.cmdr := rfl
@[simp] theorem advance_busy (s : State) : (advance s).busy = s.busy := rfl
@[simp] theorem advance_cstep (s : State) : (advance s).cstep = s.cstep + 1#4 := rfl
@[simp] theorem advance_xstep (s : State) : (advance s).xstep = s.xstep := rfl
@[simp] theorem advance_xn (s : State) : (advance s).xn = s.xn := rfl
@[simp] theorem advance_startDet (s : State) : (advance s).startDet = s.startDet := rfl
@[simp] theorem advance_ovf (s : State) : (advance s).ovf = s.ovf := rfl
@[simp] theorem advance_cnt (s : State) : (advance s).cnt = s.cnt := rfl
@[simp] theorem advance_clkDir (s : State) : (advance s).clkDir = s.clkDir := rfl
@[simp] theorem advance_clkPort (s : State) : (advance s).clkPort = s.clkPort := rfl
@[simp] theorem advance_datDir (s : State) : (advance s).datDir = s.datDir := rfl
@[simp] theorem advance_datPort (s : State) : (advance s).datPort = s.datPort := rfl
@[simp] theorem advance_dol (s : State) : (advance s).dol = s.dol := rfl
@[simp] theorem advance_sclObs (s : State) : (advance s).sclObs = s.sclObs := rfl
@[simp] theorem advance_sdaObs (s : State) : (advance s).sdaObs = s.sdaObs := rfl
@[simp] theorem advance_cstate (s : State) : (advance s).cstate = s.cstate := rfl
@[simp] theorem advance_pstate (s : State) : (advance s).pstate = s.pstate := rfl
@[simp] theorem advance_xdir (s : State) : (advance s).xdir = s.xdir := rfl
@[simp] theorem advance_result (s : State) : (advance s).result = s.result := rfl
@[simp] theorem advance_rspValid (s : State) : (advance s).rspValid = s.rspValid := rfl
@[simp] theorem advance_fOrder (s : State) : (advance s).fOrder = s.fOrder := rfl
@[simp] theorem advance_fIllegal (s : State) : (advance s).fIllegal = s.fIllegal := rfl

@[simp] theorem nextX_cfg (s : State) : (nextX s).cfg = s.cfg := rfl
@[simp] theorem nextX_sched (s : State) : (nextX s).sched = s.sched := rfl
@[simp] theorem nextX_envScl (s : State) : (nextX s).envScl = s.envScl := rfl
@[simp] theorem nextX_envSda (s : State) : (nextX s).envSda = s.envSda := rfl
@[simp] theorem nextX_sr (s : State) : (nextX s).sr = s.sr := rfl
@[simp] theorem nextX_tmp (s : State) : (nextX s).tmp = s.tmp := rfl
@[simp] theorem nextX_rdata (s : State) : (nextX s).rdata = s.rdata := rfl
@[simp] theorem nextX_cmdr (s : State) : (nextX s).cmdr = s.cmdr := rfl
@[simp] theorem nextX_busy (s : State) : (nextX s).busy = s.busy := rfl
@[simp] theorem nextX_cstep (s : State) : (nextX s).cstep = s.cstep := rfl
@[simp] theorem nextX_xstep (s : State) : (nextX s).xstep = s.xstep + 1#4 := rfl
@[simp] theorem nextX_xn (s : State) : (nextX s).xn = s.xn := rfl
@[simp] theorem nextX_startDet (s : State) : (nextX s).startDet = s.startDet := rfl
@[simp] theorem nextX_ovf (s : State) : (nextX s).ovf = s.ovf := rfl
@[simp] theorem nextX_cnt (s : State) : (nextX s).cnt = s.cnt := rfl
@[simp] theorem nextX_clkDir (s : State) : (nextX s).clkDir = s.clkDir := rfl
@[simp] theorem nextX_clkPort (s : State) : (nextX s).clkPort = s.clkPort := rfl
@[simp] theorem nextX_datDir (s : State) : (nextX s).datDir = s.datDir := rfl
@[simp] theorem nextX_datPort (s : State) : (nextX s).datPort = s.datPort := rfl
@[simp] theorem nextX_dol (s : State) : (nextX s).dol = s.dol := rfl
@[simp] theorem nextX_sclObs (s : State) : (nextX s).sclObs = s.sclObs := rfl
@[simp] theorem nextX_sdaObs (s : State) : (nextX s).sdaObs = s.sdaObs := rfl
@[simp] theorem nextX_cstate (s : State) : (nextX s).cstate = s.cstate := rfl
@[simp] theorem nextX_pstate (s : State) : (nextX s).pstate = s.pstate := rfl
@[simp] theorem nextX_xdir (s : State) : (nextX s).xdir = s.xdir := rfl
@[simp] theorem nextX_result (s : State) : (nextX s).result = s.result := rfl
@[simp] theorem nextX_rspValid (s : State) : (nextX s).rspValid = s.rspValid := rfl
@[simp] theorem nextX_fOrder (s : State) : (nextX s).fOrder = s.fOrder := rfl
@[simp] theorem nextX_fIllegal (s : State) : (nextX s).fIllegal = s.fIllegal := rfl

@[simp] theorem finish_cfg (c : ResultCode) (s : State) : (finish c s).cfg = s.cfg := rfl
@[simp] theorem finish_sched (c : ResultCode) (s : State) : (finish c s).sched = s.sched := rfl
@[simp] theorem finish_envScl (c : ResultCode) (s : State) : (finish c s).envScl = s.envScl := rfl
@[simp] theorem finish_envSda (c : ResultCode) (s : State) : (finish c s).envSda = s.envSda := rfl
@[simp] theorem finish_sr (c : ResultCode) (s : State) : (finish c s).sr = s.sr := rfl
@[simp] theorem finish_tmp (c : ResultCode) (s : State) : (finish c s).tmp = s.tmp := rfl
@[simp] theorem finish_rdata (c : ResultCode) (s : State) : (finish c s).rdata = s.rdata := rfl
@[simp] theorem finish_cmdr (c : ResultCode) (s : State) : (finish c s).cmdr = s.cmdr := rfl
@[simp] theorem finish_busy (c : ResultCode) (s : State) : (finish c s).busy = false := rfl
@[simp] theorem finish_cstep (c : ResultCode) (s : State) : (finish c s).cstep = 0#4 := rfl
@[simp] theorem finish_xstep (c : ResultCode) (s : State) : (finish c s).xstep = 0#4 := rfl
@[simp] theorem finish_xn (c : ResultCode) (s : State) : (finish c s).xn = s.xn := rfl
@[simp] theorem finish_startDet (c : ResultCode) (s : State) : (finish c s).startDet = s.startDet := rfl
@[simp] theorem finish_ovf (c : ResultCode) (s : State) : (finish c s).ovf = s.ovf := rfl
@[simp] theorem finish_cnt (c : ResultCode) (s : State) : (finish c s).cnt = s.cnt := rfl
@[simp] theorem finish_clkDir (c : ResultCode) (s : State) : (finish c s).clkDir = s.clkDir := rfl
@[simp] theorem finish_clkPort (c : ResultCode) (s : State) : (finish c s).clkPort = s.clkPort := rfl
@[simp] theorem finish_datDir (c : ResultCode) (s : State) : (finish c s).datDir = s.datDir := rfl
@[simp] theorem finish_datPort (c : ResultCode) (s : State) : (finish c s).datPort = s.datPort := rfl
@[simp] theorem finish_dol (c : ResultCode) (s : State) : (finish c s).dol = s.dol := rfl
@[simp] theorem finish_sclObs (c : ResultCode) (s : State) : (finish c s).sclObs = s.sclObs := rfl
@[simp] theorem finish_sdaObs (c : ResultCode) (s : State) : (finish c s).sdaObs = s.sdaObs := rfl
@[simp] theorem finish_cstate (c : ResultCode) (s : State) : (finish c s).cstate = s.cstate := rfl
@[simp] theorem finish_pstate (c : ResultCode) (s : State) : (finish c s).pstate = s.pstate := rfl
@[simp] theorem finish_xdir (c : ResultCode) (s : State) : (finish c s).xdir = s.xdir := rfl
@[simp] theorem finish_result (c : ResultCode) (s : State) : (finish c s).result = c := rfl
@[simp] theorem finish_rspValid (c : ResultCode) (s : State) : (finish c s).rspValid = true := rfl
@[simp] theorem finish_fOrder (c : ResultCode) (s : State) : (finish c s).fOrder = s.fOrder := rfl
@[simp] theorem finish_fIllegal (c : ResultCode) (s : State) : (finish c s).fIllegal = s.fIllegal := rfl

@[simp] theorem acceptCommand_cfg (w : Word) (ok : Bool) (s : State) : (acceptCommand w ok s).cfg = s.cfg := rfl
@[simp] theorem acceptCommand_sched (w : Word) (ok : Bool) (s : State) : (acceptCommand w ok s).sched = s.sched := rfl
@[simp] theorem acceptCommand_envScl (w : Word) (ok : Bool) (s : State) : (acceptCommand w ok s).envScl = s.envScl := rfl
@[simp] theorem acceptCommand_envSda (w : Word) (ok : Bool) (s : State) : (acceptCommand w ok s).envSda = s.envSda := rfl
@[simp] theorem acceptCommand_sr (w : Word) (ok : Bool) (s : State) : (acceptCommand w ok s).sr = s.sr := rfl
@[simp] theorem acceptCommand_tmp (w : Word) (ok : Bool) (s : State) : (acceptCommand w ok s).tmp = s.tmp := rfl
@[simp] theorem acceptCommand_rdata (w : Word) (ok : Bool) (s : State) : (acceptCommand w ok s).rdata = s.rdata := rfl
@[simp] theorem acceptCommand_cmdr (w : Word) (ok : Bool) (s : State) : (acceptCommand w ok s).cmdr = w := rfl
@[simp] theorem acceptCommand_busy (w : Word) (ok : Bool) (s : State) : (acceptCommand w ok s).busy = true := rfl
@[simp] theorem acceptCommand_cstep (w : Word) (ok : Bool) (s : State) : (acceptCommand w ok s).cstep = 0#4 := rfl
@[simp] theorem acceptCommand_xstep (w : Word) (ok : Bool) (s : State) : (acceptCommand w ok s).xstep = 0#4 := rfl
@[simp] theorem acceptCommand_xn (w : Word) (ok : Bool) (s : State) : (acceptCommand w ok s).xn = s.xn := rfl
@[simp] theorem acceptCommand_startDet (w : Word) (ok : Bool) (s : State) : (acceptCommand w ok s).startDet = s.startDet := rfl
@[simp] theorem acceptCommand_ovf (w : Word) (ok : Bool) (s : State) : (acceptCommand w ok s).ovf = s.ovf := rfl
@[simp] theorem acceptCommand_cnt (w : Word) (ok : Bool) (s : State) : (acceptCommand w ok s).cnt = s.cnt := rfl
@[simp] theorem acceptCommand_clkDir (w : Word) (ok : Bool) (s : State) : (acceptCommand w ok s).clkDir = s.clkDir := rfl
@[simp] theorem acceptCommand_clkPort (w : Word) (ok : Bool) (s : State) : (acceptCommand w ok s).clkPort = s.clkPort := rfl
@[simp] theorem acceptCommand_datDir (w : Word) (ok : Bool) (s : State) : (acceptCommand w ok s).datDir = s.datDir := rfl
@[simp] theorem acceptCommand_datPort (w : Word) (ok : Bool) (s : State) : (acceptCommand w ok s).datPort = s.datPort := rfl
@[simp] theorem acceptCommand_dol (w : Word) (ok : Bool) (s : State) : (acceptCommand w ok s).dol = s.dol := rfl
@[simp] theorem acceptCommand_sclObs (w : Word) (ok : Bool) (s : State) : (acceptCommand w ok s).sclObs = s.sclObs := rfl
@[simp] theorem acceptCommand_sdaObs (w : Word) (ok : Bool) (s : State) : (acceptCommand w ok s).sdaObs = s.sdaObs := rfl
@[simp] theorem acceptCommand_cstate (w : Word) (ok : Bool) (s : State) : (acceptCommand w ok s).cstate = s.cstate := rfl
@[simp] theorem acceptCommand_pstate (w : Word) (ok : Bool) (s : State) : (acceptCommand w ok s).pstate = s.pstate := rfl
@[simp] theorem acceptCommand_xdir (w : Word) (ok : Bool) (s : State) : (acceptCommand w ok s).xdir = s.xdir := rfl
@[simp] theorem acceptCommand_result (w : Word) (ok : Bool) (s : State) : (acceptCommand w ok s).result = s.result := rfl
@[simp] theorem acceptCommand_rspValid (w : Word) (ok : Bool) (s : State) : (acceptCommand w ok s).rspValid = false := rfl
@[simp] theorem acceptCommand_fOrder (w : Word) (ok : Bool) (s : State) : (acceptCommand w ok s).fOrder = (s.fOrder || !ok) := rfl
@[simp] theorem acceptCommand_fIllegal (w : Word) (ok : Bool) (s : State) : (acceptCommand w ok s).fIllegal = s.fIllegal := rfl

@[simp] theorem refuseCommand_cfg (w : Word) (s : State) : (refuseCommand w s).cfg = s.cfg := rfl
@[simp] theorem refuseCommand_sched (w : Word) (s : State) : (refuseCommand w s).sched = s.sched := rfl
@[simp] theorem refuseCommand_envScl (w : Word) (s : State) : (refuseCommand w s).envScl = s.envScl := rfl
@[simp] theorem refuseCommand_envSda (w : Word) (s : State) : (refuseCommand w s).envSda = s.envSda := rfl
@[simp] theorem refuseCommand_sr (w : Word) (s : State) : (refuseCommand w s).sr = s.sr := rfl
@[simp] theorem refuseCommand_tmp (w : Word) (s : State) : (refuseCommand w s).tmp = s.tmp := rfl
@[simp] theorem refuseCommand_rdata (w : Word) (s : State) : (refuseCommand w s).rdata = s.rdata := rfl
@[simp] theorem refuseCommand_cmdr (w : Word) (s : State) : (refuseCommand w s).cmdr = w := rfl
@[simp] theorem refuseCommand_busy (w : Word) (s : State) : (refuseCommand w s).busy = s.busy := rfl
@[simp] theorem refuseCommand_cstep (w : Word) (s : State) : (refuseCommand w s).cstep = s.cstep := rfl
@[simp] theorem refuseCommand_xstep (w : Word) (s : State) : (refuseCommand w s).xstep = s.xstep := rfl
@[simp] theorem refuseCommand_xn (w : Word) (s : State) : (refuseCommand w s).xn = s.xn := rfl
@[simp] theorem refuseCommand_startDet (w : Word) (s : State) : (refuseCommand w s).startDet = s.startDet := rfl
@[simp] theorem refuseCommand_ovf (w : Word) (s : State) : (refuseCommand w s).ovf = s.ovf := rfl
@[simp] theorem refuseCommand_cnt (w : Word) (s : State) : (refuseCommand w s).cnt = s.cnt := rfl
@[simp] theorem refuseCommand_clkDir (w : Word) (s : State) : (refuseCommand w s).clkDir = s.clkDir := rfl
@[simp] theorem refuseCommand_clkPort (w : Word) (s : State) : (refuseCommand w s).clkPort = s.clkPort := rfl
@[simp] theorem refuseCommand_datDir (w : Word) (s : State) : (refuseCommand w s).datDir = s.datDir := rfl
@[simp] theorem refuseCommand_datPort (w : Word) (s : State) : (refuseCommand w s).datPort = s.datPort := rfl
@[simp] theorem refuseCommand_dol (w : Word) (s : State) : (refuseCommand w s).dol = s.dol := rfl
@[simp] theorem refuseCommand_sclObs (w : Word) (s : State) : (refuseCommand w s).sclObs = s.sclObs := rfl
@[simp] theorem refuseCommand_sdaObs (w : Word) (s : State) : (refuseCommand w s).sdaObs = s.sdaObs := rfl
@[simp] theorem refuseCommand_cstate (w : Word) (s : State) : (refuseCommand w s).cstate = s.cstate := rfl
@[simp] theorem refuseCommand_pstate (w : Word) (s : State) : (refuseCommand w s).pstate = s.pstate := rfl
@[simp] theorem refuseCommand_xdir (w : Word) (s : State) : (refuseCommand w s).xdir = s.xdir := rfl
@[simp] theorem refuseCommand_result (w : Word) (s : State) : (refuseCommand w s).result = .illegalCmd := rfl
@[simp] theorem refuseCommand_rspValid (w : Word) (s : State) : (refuseCommand w s).rspValid = true := rfl
@[simp] theorem refuseCommand_fOrder (w : Word) (s : State) : (refuseCommand w s).fOrder = s.fOrder := rfl
@[simp] theorem refuseCommand_fIllegal (w : Word) (s : State) : (refuseCommand w s).fIllegal = true := rfl

@[simp] theorem setPeer_cfg (c d : Bool) (s : State) : (setPeer c d s).cfg = s.cfg := rfl
@[simp] theorem setPeer_sched (c d : Bool) (s : State) : (setPeer c d s).sched = s.sched := rfl
@[simp] theorem setPeer_envScl (c d : Bool) (s : State) : (setPeer c d s).envScl = c := rfl
@[simp] theorem setPeer_envSda (c d : Bool) (s : State) : (setPeer c d s).envSda = d := rfl
@[simp] theorem setPeer_sr (c d : Bool) (s : State) : (setPeer c d s).sr = s.sr := rfl
@[simp] theorem setPeer_tmp (c d : Bool) (s : State) : (setPeer c d s).tmp = s.tmp := rfl
@[simp] theorem setPeer_rdata (c d : Bool) (s : State) : (setPeer c d s).rdata = s.rdata := rfl
@[simp] theorem setPeer_cmdr (c d : Bool) (s : State) : (setPeer c d s).cmdr = s.cmdr := rfl
@[simp] theorem setPeer_busy (c d : Bool) (s : State) : (setPeer c d s).busy = s.busy := rfl
@[simp] theorem setPeer_cstep (c d : Bool) (s : State) : (setPeer c d s).cstep = s.cstep := rfl
@[simp] theorem setPeer_xstep (c d : Bool) (s : State) : (setPeer c d s).xstep = s.xstep := rfl
@[simp] theorem setPeer_xn (c d : Bool) (s : State) : (setPeer c d s).xn = s.xn := rfl
@[simp] theorem setPeer_startDet (c d : Bool) (s : State) : (setPeer c d s).startDet = s.startDet := rfl
@[simp] theorem setPeer_ovf (c d : Bool) (s : State) : (setPeer c d s).ovf = s.ovf := rfl
@[simp] theorem setPeer_cnt (c d : Bool) (s : State) : (setPeer c d s).cnt = s.cnt := rfl
@[simp] theorem setPeer_clkDir (c d : Bool) (s : State) : (setPeer c d s).clkDir = s.clkDir := rfl
@[simp] theorem setPeer_clkPort (c d : Bool) (s : State) : (setPeer c d s).clkPort = s.clkPort := rfl
@[simp] theorem setPeer_datDir (c d : Bool) (s : State) : (setPeer c d s).datDir = s.datDir := rfl
@[simp] theorem setPeer_datPort (c d : Bool) (s : State) : (setPeer c d s).datPort = s.datPort := rfl
@[simp] theorem setPeer_dol (c d : Bool) (s : State) : (setPeer c d s).dol = s.dol := rfl
@[simp] theorem setPeer_sclObs (c d : Bool) (s : State) : (setPeer c d s).sclObs = s.sclObs := rfl
@[simp] theorem setPeer_sdaObs (c d : Bool) (s : State) : (setPeer c d s).sdaObs = s.sdaObs := rfl
@[simp] theorem setPeer_cstate (c d : Bool) (s : State) : (setPeer c d s).cstate = s.cstate := rfl
@[simp] theorem setPeer_pstate (c d : Bool) (s : State) : (setPeer c d s).pstate = s.pstate := rfl
@[simp] theorem setPeer_xdir (c d : Bool) (s : State) : (setPeer c d s).xdir = s.xdir := rfl
@[simp] theorem setPeer_result (c d : Bool) (s : State) : (setPeer c d s).result = s.result := rfl
@[simp] theorem setPeer_rspValid (c d : Bool) (s : State) : (setPeer c d s).rspValid = s.rspValid := rfl
@[simp] theorem setPeer_fOrder (c d : Bool) (s : State) : (setPeer c d s).fOrder = s.fOrder := rfl
@[simp] theorem setPeer_fIllegal (c d : Bool) (s : State) : (setPeer c d s).fIllegal = s.fIllegal := rfl

@[simp] theorem clearFlags_cfg (n : XferCount) (s : State) : (clearFlags n s).cfg = s.cfg := rfl
@[simp] theorem clearFlags_sched (n : XferCount) (s : State) : (clearFlags n s).sched = s.sched := rfl
@[simp] theorem clearFlags_envScl (n : XferCount) (s : State) : (clearFlags n s).envScl = s.envScl := rfl
@[simp] theorem clearFlags_envSda (n : XferCount) (s : State) : (clearFlags n s).envSda = s.envSda := rfl
@[simp] theorem clearFlags_sr (n : XferCount) (s : State) : (clearFlags n s).sr = s.sr := rfl
@[simp] theorem clearFlags_tmp (n : XferCount) (s : State) : (clearFlags n s).tmp = s.tmp := rfl
@[simp] theorem clearFlags_rdata (n : XferCount) (s : State) : (clearFlags n s).rdata = s.rdata := rfl
@[simp] theorem clearFlags_cmdr (n : XferCount) (s : State) : (clearFlags n s).cmdr = s.cmdr := rfl
@[simp] theorem clearFlags_busy (n : XferCount) (s : State) : (clearFlags n s).busy = s.busy := rfl
@[simp] theorem clearFlags_cstep (n : XferCount) (s : State) : (clearFlags n s).cstep = s.cstep := rfl
@[simp] theorem clearFlags_xstep (n : XferCount) (s : State) : (clearFlags n s).xstep = s.xstep := rfl
@[simp] theorem clearFlags_xn (n : XferCount) (s : State) : (clearFlags n s).xn = isEight n := rfl
@[simp] theorem clearFlags_startDet (n : XferCount) (s : State) : (clearFlags n s).startDet = false := rfl
@[simp] theorem clearFlags_ovf (n : XferCount) (s : State) : (clearFlags n s).ovf = false := rfl
@[simp] theorem clearFlags_cnt (n : XferCount) (s : State) : (clearFlags n s).cnt = edgesOf n := rfl
@[simp] theorem clearFlags_clkDir (n : XferCount) (s : State) : (clearFlags n s).clkDir = s.clkDir := rfl
@[simp] theorem clearFlags_clkPort (n : XferCount) (s : State) : (clearFlags n s).clkPort = s.clkPort := rfl
@[simp] theorem clearFlags_datDir (n : XferCount) (s : State) : (clearFlags n s).datDir = s.datDir := rfl
@[simp] theorem clearFlags_datPort (n : XferCount) (s : State) : (clearFlags n s).datPort = s.datPort := rfl
@[simp] theorem clearFlags_dol (n : XferCount) (s : State) : (clearFlags n s).dol = s.dol := rfl
@[simp] theorem clearFlags_sclObs (n : XferCount) (s : State) : (clearFlags n s).sclObs = s.sclObs := rfl
@[simp] theorem clearFlags_sdaObs (n : XferCount) (s : State) : (clearFlags n s).sdaObs = s.sdaObs := rfl
@[simp] theorem clearFlags_cstate (n : XferCount) (s : State) : (clearFlags n s).cstate = s.cstate := rfl
@[simp] theorem clearFlags_pstate (n : XferCount) (s : State) : (clearFlags n s).pstate = s.pstate := rfl
@[simp] theorem clearFlags_xdir (n : XferCount) (s : State) : (clearFlags n s).xdir = s.xdir := rfl
@[simp] theorem clearFlags_result (n : XferCount) (s : State) : (clearFlags n s).result = s.result := rfl
@[simp] theorem clearFlags_rspValid (n : XferCount) (s : State) : (clearFlags n s).rspValid = s.rspValid := rfl
@[simp] theorem clearFlags_fOrder (n : XferCount) (s : State) : (clearFlags n s).fOrder = s.fOrder := rfl
@[simp] theorem clearFlags_fIllegal (n : XferCount) (s : State) : (clearFlags n s).fIllegal = s.fIllegal := rfl

@[simp] theorem countEdge_cfg (s : State) : (countEdge s).cfg = s.cfg := rfl
@[simp] theorem countEdge_sched (s : State) : (countEdge s).sched = s.sched := rfl
@[simp] theorem countEdge_envScl (s : State) : (countEdge s).envScl = s.envScl := rfl
@[simp] theorem countEdge_envSda (s : State) : (countEdge s).envSda = s.envSda := rfl
@[simp] theorem countEdge_sr (s : State) : (countEdge s).sr = s.sr := rfl
@[simp] theorem countEdge_tmp (s : State) : (countEdge s).tmp = s.tmp := rfl
@[simp] theorem countEdge_rdata (s : State) : (countEdge s).rdata = s.rdata := rfl
@[simp] theorem countEdge_cmdr (s : State) : (countEdge s).cmdr = s.cmdr := rfl
@[simp] theorem countEdge_busy (s : State) : (countEdge s).busy = s.busy := rfl
@[simp] theorem countEdge_cstep (s : State) : (countEdge s).cstep = s.cstep := rfl
@[simp] theorem countEdge_xstep (s : State) : (countEdge s).xstep = s.xstep := rfl
@[simp] theorem countEdge_xn (s : State) : (countEdge s).xn = s.xn := rfl
@[simp] theorem countEdge_startDet (s : State) : (countEdge s).startDet = s.startDet := rfl
@[simp] theorem countEdge_ovf (s : State) : (countEdge s).ovf = s.ovf := rfl
@[simp] theorem countEdge_cnt (s : State) : (countEdge s).cnt = s.cnt - 1#5 := rfl
@[simp] theorem countEdge_clkDir (s : State) : (countEdge s).clkDir = s.clkDir := rfl
@[simp] theorem countEdge_clkPort (s : State) : (countEdge s).clkPort = s.clkPort := rfl
@[simp] theorem countEdge_datDir (s : State) : (countEdge s).datDir = s.datDir := rfl
@[simp] theorem countEdge_datPort (s : State) : (countEdge s).datPort = s.datPort := rfl
@[simp] theorem countEdge_dol (s : State) : (countEdge s).dol = s.dol := rfl
@[simp] theorem countEdge_sclObs (s : State) : (countEdge s).sclObs = s.sclObs := rfl
@[simp] theorem countEdge_sdaObs (s : State) : (countEdge s).sdaObs = s.sdaObs := rfl
@[simp] theorem countEdge_cstate (s : State) : (countEdge s).cstate = s.cstate := rfl
@[simp] theorem countEdge_pstate (s : State) : (countEdge s).pstate = s.pstate := rfl
@[simp] theorem countEdge_xdir (s : State) : (countEdge s).xdir = s.xdir := rfl
@[simp] theorem countEdge_result (s : State) : (countEdge s).result = s.result := rfl
@[simp] theorem countEdge_rspValid (s : State) : (countEdge s).rspValid = s.rspValid := rfl
@[simp] theorem countEdge_fOrder (s : State) : (countEdge s).fOrder = s.fOrder := rfl
@[simp] theorem countEdge_fIllegal (s : State) : (countEdge s).fIllegal = s.fIllegal := rfl

@[simp] theorem countLastEdge_cfg (s : State) : (countLastEdge s).cfg = s.cfg := rfl
@[simp] theorem countLastEdge_sched (s : State) : (countLastEdge s).sched = s.sched := rfl
@[simp] theorem countLastEdge_envScl (s : State) : (countLastEdge s).envScl = s.envScl := rfl
@[simp] theorem countLastEdge_envSda (s : State) : (countLastEdge s).envSda = s.envSda := rfl
@[simp] theorem countLastEdge_sr (s : State) : (countLastEdge s).sr = s.sr := rfl
@[simp] theorem countLastEdge_tmp (s : State) : (countLastEdge s).tmp = s.tmp := rfl
@[simp] theorem countLastEdge_rdata (s : State) : (countLastEdge s).rdata = s.rdata := rfl
@[simp] theorem countLastEdge_cmdr (s : State) : (countLastEdge s).cmdr = s.cmdr := rfl
@[simp] theorem countLastEdge_busy (s : State) : (countLastEdge s).busy = s.busy := rfl
@[simp] theorem countLastEdge_cstep (s : State) : (countLastEdge s).cstep = s.cstep := rfl
@[simp] theorem countLastEdge_xstep (s : State) : (countLastEdge s).xstep = s.xstep := rfl
@[simp] theorem countLastEdge_xn (s : State) : (countLastEdge s).xn = s.xn := rfl
@[simp] theorem countLastEdge_startDet (s : State) : (countLastEdge s).startDet = s.startDet := rfl
@[simp] theorem countLastEdge_ovf (s : State) : (countLastEdge s).ovf = (if s.cnt - 1#5 = 0#5 then true else s.ovf) := rfl
@[simp] theorem countLastEdge_cnt (s : State) : (countLastEdge s).cnt = s.cnt - 1#5 := rfl
@[simp] theorem countLastEdge_clkDir (s : State) : (countLastEdge s).clkDir = s.clkDir := rfl
@[simp] theorem countLastEdge_clkPort (s : State) : (countLastEdge s).clkPort = s.clkPort := rfl
@[simp] theorem countLastEdge_datDir (s : State) : (countLastEdge s).datDir = s.datDir := rfl
@[simp] theorem countLastEdge_datPort (s : State) : (countLastEdge s).datPort = s.datPort := rfl
@[simp] theorem countLastEdge_dol (s : State) : (countLastEdge s).dol = s.dol := rfl
@[simp] theorem countLastEdge_sclObs (s : State) : (countLastEdge s).sclObs = s.sclObs := rfl
@[simp] theorem countLastEdge_sdaObs (s : State) : (countLastEdge s).sdaObs = s.sdaObs := rfl
@[simp] theorem countLastEdge_cstate (s : State) : (countLastEdge s).cstate = s.cstate := rfl
@[simp] theorem countLastEdge_pstate (s : State) : (countLastEdge s).pstate = s.pstate := rfl
@[simp] theorem countLastEdge_xdir (s : State) : (countLastEdge s).xdir = s.xdir := rfl
@[simp] theorem countLastEdge_result (s : State) : (countLastEdge s).result = s.result := rfl
@[simp] theorem countLastEdge_rspValid (s : State) : (countLastEdge s).rspValid = s.rspValid := rfl
@[simp] theorem countLastEdge_fOrder (s : State) : (countLastEdge s).fOrder = s.fOrder := rfl
@[simp] theorem countLastEdge_fIllegal (s : State) : (countLastEdge s).fIllegal = s.fIllegal := rfl

@[simp] theorem shiftIn_cfg (s : State) : (shiftIn s).cfg = s.cfg := rfl
@[simp] theorem shiftIn_sched (s : State) : (shiftIn s).sched = s.sched := rfl
@[simp] theorem shiftIn_envScl (s : State) : (shiftIn s).envScl = s.envScl := rfl
@[simp] theorem shiftIn_envSda (s : State) : (shiftIn s).envSda = s.envSda := rfl
@[simp] theorem shiftIn_sr (s : State) : (shiftIn s).sr = s.sr.extractLsb' 0 7 ++ BitVec.ofBool s.sdaObs := rfl
@[simp] theorem shiftIn_tmp (s : State) : (shiftIn s).tmp = s.tmp := rfl
@[simp] theorem shiftIn_rdata (s : State) : (shiftIn s).rdata = s.rdata := rfl
@[simp] theorem shiftIn_cmdr (s : State) : (shiftIn s).cmdr = s.cmdr := rfl
@[simp] theorem shiftIn_busy (s : State) : (shiftIn s).busy = s.busy := rfl
@[simp] theorem shiftIn_cstep (s : State) : (shiftIn s).cstep = s.cstep := rfl
@[simp] theorem shiftIn_xstep (s : State) : (shiftIn s).xstep = s.xstep := rfl
@[simp] theorem shiftIn_xn (s : State) : (shiftIn s).xn = s.xn := rfl
@[simp] theorem shiftIn_startDet (s : State) : (shiftIn s).startDet = s.startDet := rfl
@[simp] theorem shiftIn_ovf (s : State) : (shiftIn s).ovf = s.ovf := rfl
@[simp] theorem shiftIn_cnt (s : State) : (shiftIn s).cnt = s.cnt := rfl
@[simp] theorem shiftIn_clkDir (s : State) : (shiftIn s).clkDir = s.clkDir := rfl
@[simp] theorem shiftIn_clkPort (s : State) : (shiftIn s).clkPort = s.clkPort := rfl
@[simp] theorem shiftIn_datDir (s : State) : (shiftIn s).datDir = s.datDir := rfl
@[simp] theorem shiftIn_datPort (s : State) : (shiftIn s).datPort = s.datPort := rfl
@[simp] theorem shiftIn_dol (s : State) : (shiftIn s).dol = s.dol := rfl
@[simp] theorem shiftIn_sclObs (s : State) : (shiftIn s).sclObs = s.sclObs := rfl
@[simp] theorem shiftIn_sdaObs (s : State) : (shiftIn s).sdaObs = s.sdaObs := rfl
@[simp] theorem shiftIn_cstate (s : State) : (shiftIn s).cstate = s.cstate := rfl
@[simp] theorem shiftIn_pstate (s : State) : (shiftIn s).pstate = s.pstate := rfl
@[simp] theorem shiftIn_xdir (s : State) : (shiftIn s).xdir = s.xdir := rfl
@[simp] theorem shiftIn_result (s : State) : (shiftIn s).result = s.result := rfl
@[simp] theorem shiftIn_rspValid (s : State) : (shiftIn s).rspValid = s.rspValid := rfl
@[simp] theorem shiftIn_fOrder (s : State) : (shiftIn s).fOrder = s.fOrder := rfl
@[simp] theorem shiftIn_fIllegal (s : State) : (shiftIn s).fIllegal = s.fIllegal := rfl

@[simp] theorem loopTest_cfg (s : State) : (loopTest s).cfg = s.cfg := rfl
@[simp] theorem loopTest_sched (s : State) : (loopTest s).sched = s.sched := rfl
@[simp] theorem loopTest_envScl (s : State) : (loopTest s).envScl = s.envScl := rfl
@[simp] theorem loopTest_envSda (s : State) : (loopTest s).envSda = s.envSda := rfl
@[simp] theorem loopTest_sr (s : State) : (loopTest s).sr = s.sr := rfl
@[simp] theorem loopTest_tmp (s : State) : (loopTest s).tmp = s.tmp := rfl
@[simp] theorem loopTest_rdata (s : State) : (loopTest s).rdata = s.rdata := rfl
@[simp] theorem loopTest_cmdr (s : State) : (loopTest s).cmdr = s.cmdr := rfl
@[simp] theorem loopTest_busy (s : State) : (loopTest s).busy = s.busy := rfl
@[simp] theorem loopTest_cstep (s : State) : (loopTest s).cstep = s.cstep := rfl
@[simp] theorem loopTest_xstep (s : State) : (loopTest s).xstep = (if s.ovf then 6#4 else 1#4) := rfl
@[simp] theorem loopTest_xn (s : State) : (loopTest s).xn = s.xn := rfl
@[simp] theorem loopTest_startDet (s : State) : (loopTest s).startDet = s.startDet := rfl
@[simp] theorem loopTest_ovf (s : State) : (loopTest s).ovf = s.ovf := rfl
@[simp] theorem loopTest_cnt (s : State) : (loopTest s).cnt = s.cnt := rfl
@[simp] theorem loopTest_clkDir (s : State) : (loopTest s).clkDir = s.clkDir := rfl
@[simp] theorem loopTest_clkPort (s : State) : (loopTest s).clkPort = s.clkPort := rfl
@[simp] theorem loopTest_datDir (s : State) : (loopTest s).datDir = s.datDir := rfl
@[simp] theorem loopTest_datPort (s : State) : (loopTest s).datPort = s.datPort := rfl
@[simp] theorem loopTest_dol (s : State) : (loopTest s).dol = s.dol := rfl
@[simp] theorem loopTest_sclObs (s : State) : (loopTest s).sclObs = s.sclObs := rfl
@[simp] theorem loopTest_sdaObs (s : State) : (loopTest s).sdaObs = s.sdaObs := rfl
@[simp] theorem loopTest_cstate (s : State) : (loopTest s).cstate = s.cstate := rfl
@[simp] theorem loopTest_pstate (s : State) : (loopTest s).pstate = s.pstate := rfl
@[simp] theorem loopTest_xdir (s : State) : (loopTest s).xdir = s.xdir := rfl
@[simp] theorem loopTest_result (s : State) : (loopTest s).result = s.result := rfl
@[simp] theorem loopTest_rspValid (s : State) : (loopTest s).rspValid = s.rspValid := rfl
@[simp] theorem loopTest_fOrder (s : State) : (loopTest s).fOrder = s.fOrder := rfl
@[simp] theorem loopTest_fIllegal (s : State) : (loopTest s).fIllegal = s.fIllegal := rfl

@[simp] theorem capture_cfg (s : State) : (capture s).cfg = s.cfg := rfl
@[simp] theorem capture_sched (s : State) : (capture s).sched = s.sched := rfl
@[simp] theorem capture_envScl (s : State) : (capture s).envScl = s.envScl := rfl
@[simp] theorem capture_envSda (s : State) : (capture s).envSda = s.envSda := rfl
@[simp] theorem capture_sr (s : State) : (capture s).sr = 0xFF#8 := rfl
@[simp] theorem capture_tmp (s : State) : (capture s).tmp = s.sr := rfl
@[simp] theorem capture_rdata (s : State) : (capture s).rdata = s.rdata := rfl
@[simp] theorem capture_cmdr (s : State) : (capture s).cmdr = s.cmdr := rfl
@[simp] theorem capture_busy (s : State) : (capture s).busy = s.busy := rfl
@[simp] theorem capture_cstep (s : State) : (capture s).cstep = s.cstep := rfl
@[simp] theorem capture_xstep (s : State) : (capture s).xstep = s.xstep := rfl
@[simp] theorem capture_xn (s : State) : (capture s).xn = s.xn := rfl
@[simp] theorem capture_startDet (s : State) : (capture s).startDet = s.startDet := rfl
@[simp] theorem capture_ovf (s : State) : (capture s).ovf = s.ovf := rfl
@[simp] theorem capture_cnt (s : State) : (capture s).cnt = s.cnt := rfl
@[simp] theorem capture_clkDir (s : State) : (capture s).clkDir = s.clkDir := rfl
@[simp] theorem capture_clkPort (s : State) : (capture s).clkPort = s.clkPort := rfl
@[simp] theorem capture_datDir (s : State) : (capture s).datDir = s.datDir := rfl
@[simp] theorem capture_datPort (s : State) : (capture s).datPort = s.datPort := rfl
@[simp] theorem capture_dol (s : State) : (capture s).dol = s.dol := rfl
@[simp] theorem capture_sclObs (s : State) : (capture s).sclObs = s.sclObs := rfl
@[simp] theorem capture_sdaObs (s : State) : (capture s).sdaObs = s.sdaObs := rfl
@[simp] theorem capture_cstate (s : State) : (capture s).cstate = s.cstate := rfl
@[simp] theorem capture_pstate (s : State) : (capture s).pstate = s.pstate := rfl
@[simp] theorem capture_xdir (s : State) : (capture s).xdir = s.xdir := rfl
@[simp] theorem capture_result (s : State) : (capture s).result = s.result := rfl
@[simp] theorem capture_rspValid (s : State) : (capture s).rspValid = s.rspValid := rfl
@[simp] theorem capture_fOrder (s : State) : (capture s).fOrder = s.fOrder := rfl
@[simp] theorem capture_fIllegal (s : State) : (capture s).fIllegal = s.fIllegal := rfl

@[simp] theorem returnFromXfer_cfg (s : State) : (returnFromXfer s).cfg = s.cfg := rfl
@[simp] theorem returnFromXfer_sched (s : State) : (returnFromXfer s).sched = s.sched := rfl
@[simp] theorem returnFromXfer_envScl (s : State) : (returnFromXfer s).envScl = s.envScl := rfl
@[simp] theorem returnFromXfer_envSda (s : State) : (returnFromXfer s).envSda = s.envSda := rfl
@[simp] theorem returnFromXfer_sr (s : State) : (returnFromXfer s).sr = s.sr := rfl
@[simp] theorem returnFromXfer_tmp (s : State) : (returnFromXfer s).tmp = s.tmp := rfl
@[simp] theorem returnFromXfer_rdata (s : State) : (returnFromXfer s).rdata = s.rdata := rfl
@[simp] theorem returnFromXfer_cmdr (s : State) : (returnFromXfer s).cmdr = s.cmdr := rfl
@[simp] theorem returnFromXfer_busy (s : State) : (returnFromXfer s).busy = s.busy := rfl
@[simp] theorem returnFromXfer_cstep (s : State) : (returnFromXfer s).cstep = s.cstep + 1#4 := rfl
@[simp] theorem returnFromXfer_xstep (s : State) : (returnFromXfer s).xstep = 0#4 := rfl
@[simp] theorem returnFromXfer_xn (s : State) : (returnFromXfer s).xn = s.xn := rfl
@[simp] theorem returnFromXfer_startDet (s : State) : (returnFromXfer s).startDet = s.startDet := rfl
@[simp] theorem returnFromXfer_ovf (s : State) : (returnFromXfer s).ovf = s.ovf := rfl
@[simp] theorem returnFromXfer_cnt (s : State) : (returnFromXfer s).cnt = s.cnt := rfl
@[simp] theorem returnFromXfer_clkDir (s : State) : (returnFromXfer s).clkDir = s.clkDir := rfl
@[simp] theorem returnFromXfer_clkPort (s : State) : (returnFromXfer s).clkPort = s.clkPort := rfl
@[simp] theorem returnFromXfer_datDir (s : State) : (returnFromXfer s).datDir = true := rfl
@[simp] theorem returnFromXfer_datPort (s : State) : (returnFromXfer s).datPort = s.datPort := rfl
@[simp] theorem returnFromXfer_dol (s : State) : (returnFromXfer s).dol = s.dol := rfl
@[simp] theorem returnFromXfer_sclObs (s : State) : (returnFromXfer s).sclObs = s.sclObs := rfl
@[simp] theorem returnFromXfer_sdaObs (s : State) : (returnFromXfer s).sdaObs = s.sdaObs := rfl
@[simp] theorem returnFromXfer_cstate (s : State) : (returnFromXfer s).cstate = s.cstate := rfl
@[simp] theorem returnFromXfer_pstate (s : State) : (returnFromXfer s).pstate = s.pstate := rfl
@[simp] theorem returnFromXfer_xdir (s : State) : (returnFromXfer s).xdir = s.xdir := rfl
@[simp] theorem returnFromXfer_result (s : State) : (returnFromXfer s).result = s.result := rfl
@[simp] theorem returnFromXfer_rspValid (s : State) : (returnFromXfer s).rspValid = s.rspValid := rfl
@[simp] theorem returnFromXfer_fOrder (s : State) : (returnFromXfer s).fOrder = s.fOrder := rfl
@[simp] theorem returnFromXfer_fIllegal (s : State) : (returnFromXfer s).fIllegal = s.fIllegal := rfl

@[simp] theorem lineUpdate_cfg (s : State) : (lineUpdate s).cfg = s.cfg := rfl
@[simp] theorem lineUpdate_sched (s : State) : (lineUpdate s).sched = s.sched := rfl
@[simp] theorem lineUpdate_envScl (s : State) : (lineUpdate s).envScl = s.envScl := rfl
@[simp] theorem lineUpdate_envSda (s : State) : (lineUpdate s).envSda = s.envSda := rfl
@[simp] theorem lineUpdate_sr (s : State) : (lineUpdate s).sr = s.sr := rfl
@[simp] theorem lineUpdate_tmp (s : State) : (lineUpdate s).tmp = s.tmp := rfl
@[simp] theorem lineUpdate_rdata (s : State) : (lineUpdate s).rdata = s.rdata := rfl
@[simp] theorem lineUpdate_cmdr (s : State) : (lineUpdate s).cmdr = s.cmdr := rfl
@[simp] theorem lineUpdate_busy (s : State) : (lineUpdate s).busy = s.busy := rfl
@[simp] theorem lineUpdate_cstep (s : State) : (lineUpdate s).cstep = s.cstep := rfl
@[simp] theorem lineUpdate_xstep (s : State) : (lineUpdate s).xstep = s.xstep := rfl
@[simp] theorem lineUpdate_xn (s : State) : (lineUpdate s).xn = s.xn := rfl
@[simp] theorem lineUpdate_ovf (s : State) : (lineUpdate s).ovf = s.ovf := rfl
@[simp] theorem lineUpdate_cnt (s : State) : (lineUpdate s).cnt = s.cnt := rfl
@[simp] theorem lineUpdate_clkDir (s : State) : (lineUpdate s).clkDir = s.clkDir := rfl
@[simp] theorem lineUpdate_clkPort (s : State) : (lineUpdate s).clkPort = s.clkPort := rfl
@[simp] theorem lineUpdate_datDir (s : State) : (lineUpdate s).datDir = s.datDir := rfl
@[simp] theorem lineUpdate_datPort (s : State) : (lineUpdate s).datPort = s.datPort := rfl
@[simp] theorem lineUpdate_cstate (s : State) : (lineUpdate s).cstate = s.cstate := rfl
@[simp] theorem lineUpdate_pstate (s : State) : (lineUpdate s).pstate = s.pstate := rfl
@[simp] theorem lineUpdate_xdir (s : State) : (lineUpdate s).xdir = s.xdir := rfl
@[simp] theorem lineUpdate_result (s : State) : (lineUpdate s).result = s.result := rfl
@[simp] theorem lineUpdate_rspValid (s : State) : (lineUpdate s).rspValid = s.rspValid := rfl
@[simp] theorem lineUpdate_fOrder (s : State) : (lineUpdate s).fOrder = s.fOrder := rfl
@[simp] theorem lineUpdate_fIllegal (s : State) : (lineUpdate s).fIllegal = s.fIllegal := rfl

@[simp] theorem resetBlock_cfg (s : State) : (resetBlock s).cfg = s.cfg := rfl
@[simp] theorem resetBlock_sched (s : State) : (resetBlock s).sched = s.sched := rfl
@[simp] theorem resetBlock_envScl (s : State) : (resetBlock s).envScl = s.envScl := rfl
@[simp] theorem resetBlock_envSda (s : State) : (resetBlock s).envSda = s.envSda := rfl
@[simp] theorem resetBlock_sr (s : State) : (resetBlock s).sr = State.reset.sr := rfl
@[simp] theorem resetBlock_tmp (s : State) : (resetBlock s).tmp = State.reset.tmp := rfl
@[simp] theorem resetBlock_rdata (s : State) : (resetBlock s).rdata = State.reset.rdata := rfl
@[simp] theorem resetBlock_cmdr (s : State) : (resetBlock s).cmdr = State.reset.cmdr := rfl
@[simp] theorem resetBlock_busy (s : State) : (resetBlock s).busy = State.reset.busy := rfl
@[simp] theorem resetBlock_cstep (s : State) : (resetBlock s).cstep = State.reset.cstep := rfl
@[simp] theorem resetBlock_xstep (s : State) : (resetBlock s).xstep = State.reset.xstep := rfl
@[simp] theorem resetBlock_xn (s : State) : (resetBlock s).xn = State.reset.xn := rfl
@[simp] theorem resetBlock_startDet (s : State) : (resetBlock s).startDet = State.reset.startDet := rfl
@[simp] theorem resetBlock_ovf (s : State) : (resetBlock s).ovf = State.reset.ovf := rfl
@[simp] theorem resetBlock_cnt (s : State) : (resetBlock s).cnt = State.reset.cnt := rfl
@[simp] theorem resetBlock_clkDir (s : State) : (resetBlock s).clkDir = State.reset.clkDir := rfl
@[simp] theorem resetBlock_clkPort (s : State) : (resetBlock s).clkPort = State.reset.clkPort := rfl
@[simp] theorem resetBlock_datDir (s : State) : (resetBlock s).datDir = State.reset.datDir := rfl
@[simp] theorem resetBlock_datPort (s : State) : (resetBlock s).datPort = State.reset.datPort := rfl
@[simp] theorem resetBlock_dol (s : State) : (resetBlock s).dol = State.reset.dol := rfl
@[simp] theorem resetBlock_sclObs (s : State) : (resetBlock s).sclObs = s.envScl := rfl
@[simp] theorem resetBlock_sdaObs (s : State) : (resetBlock s).sdaObs = s.envSda := rfl
@[simp] theorem resetBlock_cstate (s : State) : (resetBlock s).cstate = State.reset.cstate := rfl
@[simp] theorem resetBlock_pstate (s : State) : (resetBlock s).pstate = State.reset.pstate := rfl
@[simp] theorem resetBlock_xdir (s : State) : (resetBlock s).xdir = State.reset.xdir := rfl
@[simp] theorem resetBlock_result (s : State) : (resetBlock s).result = State.reset.result := rfl
@[simp] theorem resetBlock_rspValid (s : State) : (resetBlock s).rspValid = State.reset.rspValid := rfl
@[simp] theorem resetBlock_fOrder (s : State) : (resetBlock s).fOrder = State.reset.fOrder := rfl
@[simp] theorem resetBlock_fIllegal (s : State) : (resetBlock s).fIllegal = State.reset.fIllegal := rfl

end Sys2Proof.Machine
end

