-- ==== Sys2Proof/Laws/Lines.lean ====
section
/-! SUPPORT. What the line update does (R60 to R62, R101, R102): one lemma per field it writes, that it settles the lines,
and that it changes nothing where they are settled already. -/

namespace Sys2Proof.Machine

theorem lineUpdate_sclObs (s : State) : (lineUpdate s).sclObs = (s.ownScl && s.envScl) := rfl

theorem lineUpdate_dol (s : State) :
    (lineUpdate s).dol = if (lineUpdate s).sclObs then s.dol else s.sr.getLsbD 7 := rfl

theorem lineUpdate_sdaObs (s : State) :
    (lineUpdate s).sdaObs = (!(s.datDir && (!s.datPort || !(lineUpdate s).dol)) && s.envSda) := rfl

theorem lineUpdate_startDet (s : State) :
    (lineUpdate s).startDet =
      (s.startDet || (s.sclObs && (lineUpdate s).sclObs && s.sdaObs && !(lineUpdate s).sdaObs)) := rfl

@[simp] theorem lineUpdate_follows (s : State) : (lineUpdate s).follows = s.follows := rfl

theorem lineUpdate_settled (s : State) : (lineUpdate s).linesSettled := by
  refine ⟨rfl, fun h => ?_, rfl⟩
  rw [lineUpdate_dol, h]
  rfl

/-- With the lines settled, an effect that touches no drive, latch, pattern or flag leaves them as they are. -/
theorem lineUpdate_of_settled {s : State} (h : s.linesSettled) : lineUpdate s = s := by
  obtain ⟨hscl, hdol, hsda⟩ := h
  have h1 : (lineUpdate s).sclObs = s.sclObs := by rw [lineUpdate_sclObs, ← hscl]
  have h2 : (lineUpdate s).dol = s.dol := by
    rw [lineUpdate_dol, h1]
    cases hs : s.sclObs
    · exact (hdol hs).symm
    · rfl
  have h3 : (lineUpdate s).sdaObs = s.sdaObs := by rw [lineUpdate_sdaObs, h2, hsda]; rfl
  have h4 : (lineUpdate s).startDet = s.startDet := by
    rw [lineUpdate_startDet, h1, h3]
    cases s.startDet <;> cases s.sclObs <;> cases s.sdaObs <;> rfl
  calc lineUpdate s
      = { s with
          sclObs := (lineUpdate s).sclObs, dol := (lineUpdate s).dol, sdaObs := (lineUpdate s).sdaObs,
          startDet := (lineUpdate s).startDet } := rfl
    _ = s := by rw [h1, h2, h3, h4]

/-- While the block pulls the clock, the line reads low, the latch shows SR[7] and no start is seen. -/
theorem lineUpdate_clock_low {s : State} (hd : s.clkDir = true) (hp : s.clkPort = false) :
    (lineUpdate s).sclObs = false ∧ (lineUpdate s).dol = s.sr.getLsbD 7 ∧ (lineUpdate s).startDet = s.startDet := by
  have h : (lineUpdate s).sclObs = false := by
    rw [lineUpdate_sclObs]
    simp [State.ownScl, hd, hp]
  refine ⟨h, ?_, ?_⟩
  · rw [lineUpdate_dol, h]; rfl
  · rw [lineUpdate_startDet, h]; simp

end Sys2Proof.Machine
end

