-- ==== Sys2Proof/Laws/Invariant.lean ====
section
/-! SUPPORT. A check of the machine's invariant that the kernel can evaluate, with its soundness: what shows that a concrete
state meets the hypothesis `Inv` of a statement. -/

namespace Sys2Proof.Machine

/-- The fields of `TransferForm`, evaluated. -/
def transferCheck (n : XferCount) (s : State) : Bool :=
  decide (s.xstep.toNat ≤ 8 ∧
    (s.xstep.toNat = 0 → s.cnt = 0#5) ∧
    (s.xstep.toNat = 1 ∨ s.xstep.toNat = 2 →
      s.ovf = false ∧ s.cnt.toNat % 2 = 0 ∧ 2 ≤ s.cnt.toNat ∧ s.cnt.toNat ≤ 2 * bitsOf n) ∧
    (s.xstep.toNat = 3 ∨ s.xstep.toNat = 4 →
      s.ovf = false ∧ s.cnt.toNat % 2 = 1 ∧ s.cnt.toNat < 2 * bitsOf n) ∧
    (s.xstep.toNat = 5 → s.ovf = decide (s.cnt = 0#5) ∧ s.cnt.toNat % 2 = 0 ∧ s.cnt.toNat + 2 ≤ 2 * bitsOf n) ∧
    (6 ≤ s.xstep.toNat → s.ovf = true ∧ s.cnt = 0#5) ∧
    (1 ≤ s.xstep.toNat → s.xn = isEight n) ∧
    (s.follows = false → s.xstep.toNat = 3 ∨ s.xstep.toNat = 4 → s.clkPort = true) ∧
    (s.follows = false → 5 ≤ s.xstep.toNat → s.clkPort = false) ∧
    (s.xstep.toNat = 8 → s.sr = 0xFF#8 ∧ (s.follows = false → s.dol = true)))

theorem transferForm_of_check {n : XferCount} {s : State} (h : transferCheck n s = true) : TransferForm n s := by
  obtain ⟨h1, h2, h3, h4, h5, h6, h7, h8, h9, h10⟩ := of_decide_eq_true h
  exact ⟨h1, h2, h3, h4, h5, h6, h7, h8, h9, h10⟩

/-- The fields of `OutsideTransfer`, evaluated. -/
def outsideCheck (s : State) : Bool :=
  decide (s.xstep = 0#4 ∧ s.cnt = 0#5 ∧ s.datDir = true ∧ s.sr = 0xFF#8 ∧ (s.follows = false → s.dol = true))

theorem outsideTransfer_of_check {s : State} (h : outsideCheck s = true) : OutsideTransfer s := by
  obtain ⟨h1, h2, h3, h4, h5⟩ := of_decide_eq_true h
  exact ⟨h1, h2, h3, h4, h5⟩

/-- `CState.betweenCommands`, evaluated. -/
def CState.betweenCheck (c : CState) : Bool :=
  decide (c = .idle ∨ c = .data ∨ c = .waitStop)

/-- `PState.betweenCommands`, evaluated. -/
def PState.betweenCheck (p : PState) : Bool :=
  decide (p = .waitStart ∨ p = .dataExchange)

theorem CState.between_of_check {c : CState} (h : c.betweenCheck = true) : c.betweenCommands := by
  cases c <;> first | exact absurd h (by decide) | simp [CState.betweenCommands]

theorem PState.between_of_check {p : PState} (h : p.betweenCheck = true) : p.betweenCommands := by
  cases p <;> first | exact absurd h (by decide) | simp [PState.betweenCommands]

/-- The fields of `BusyForm`, evaluated. -/
def busyCheck (i : Instr) (s : State) : Bool :=
  (match xferAt i s.cstep.toNat with
    | some n => transferCheck n s
    | none => outsideCheck s) &&
  (match cstateDuring i s.cstep.toNat with
    | some c => decide (s.cstate = c)
    | none => s.cstate.betweenCheck) &&
  (match pstateDuring i s.cstep.toNat with
    | some p => decide (s.pstate = p)
    | none => s.pstate.betweenCheck) &&
  decide (s.rspValid = false ∧ s.cstep.toNat < (programOf i).length ∧
    s.datPort = (!dataForcedLow i s.cstep.toNat) ∧
    (s.follows = false → clockLowFrom i ≤ s.cstep.toNat →
      xferAt i s.cstep.toNat = none ∨ (s.xstep.toNat ≠ 3 ∧ s.xstep.toNat ≠ 4) → s.clkPort = false))

theorem busyForm_of_check {i : Instr} {s : State} (h : busyCheck i s = true) : BusyForm i s := by
  simp only [busyCheck, Bool.and_eq_true] at h
  obtain ⟨⟨⟨hx, hc⟩, hp⟩, hr⟩ := h
  obtain ⟨h1, h2, h3, h4⟩ := of_decide_eq_true hr
  refine ⟨h1, h2, fun n hn => ?_, fun hn => ?_, h3, h4, fun c hn => ?_, fun hn => ?_, fun p hn => ?_, fun hn => ?_⟩
  · rw [hn] at hx; exact transferForm_of_check hx
  · rw [hn] at hx; exact outsideTransfer_of_check hx
  · rw [hn] at hc; exact of_decide_eq_true hc
  · rw [hn] at hc; exact CState.between_of_check hc
  · rw [hn] at hp; exact of_decide_eq_true hp
  · rw [hn] at hp; exact PState.between_of_check hp

/-- `State.inTransaction`, evaluated. -/
def State.inTransactionCheck (s : State) : Bool :=
  match s.cfg.role with
  | .controller => decide (s.cstate = .data ∨ s.cstate = .waitStop)
  | .peripheral => decide (s.pstate = .dataExchange)

theorem inTransactionCheck_of {s : State} (h : s.inTransaction) : s.inTransactionCheck = true := by
  unfold State.inTransaction at h
  cases hr : s.cfg.role <;> simp [hr] at h <;> simp [State.inTransactionCheck, hr, h]

/-- The fields of `IdleForm`, evaluated. -/
def idleCheck (s : State) : Bool :=
  outsideCheck s && s.cstate.betweenCheck && s.pstate.betweenCheck &&
  decide (s.cstep = 0#4 ∧ s.datPort = true ∧
    (s.follows = false → s.inTransactionCheck = true → s.clkPort = false))

theorem idleForm_of_check {s : State} (h : idleCheck s = true) : IdleForm s := by
  simp only [idleCheck, Bool.and_eq_true] at h
  obtain ⟨⟨⟨ho, hc⟩, hp⟩, hr⟩ := h
  obtain ⟨h1, h2, h3⟩ := of_decide_eq_true hr
  exact ⟨h1, outsideTransfer_of_check ho, h2, CState.between_of_check hc, PState.between_of_check hp,
    fun hf ht => h3 hf (inTransactionCheck_of ht)⟩

/-- The fields of `Inv`, evaluated. -/
def invCheck (s : State) : Bool :=
  decide (s.sclObs = (s.ownScl && s.envScl) ∧ (s.sclObs = false → s.dol = s.sr.getLsbD 7) ∧
    s.sdaObs = (s.ownSda && s.envSda) ∧ s.clkDir = true ∧ (s.follows = true → s.clkPort = true) ∧
    (s.result = .illegalCmd → s.fIllegal = true)) &&
  (if s.busy then
    match decode s.cfg.role s.cmdr with
    | .ok i => busyCheck i s
    | .error _ => false
  else idleCheck s)

/-- A state that passes the check meets the invariant. -/
theorem inv_of_check {s : State} (h : invCheck s = true) : Inv s := by
  simp only [invCheck, Bool.and_eq_true] at h
  obtain ⟨hs, hb⟩ := h
  obtain ⟨h1, h2, h3, h4, h5, h6⟩ := of_decide_eq_true hs
  refine ⟨⟨h1, h2, h3⟩, h4, h5, h6, fun hn => ?_, fun hn => ?_⟩
  · rw [hn] at hb
    exact idleForm_of_check (by simpa using hb)
  · rw [hn, if_pos rfl] at hb
    split at hb
    · next i hi => exact ⟨i, hi, busyForm_of_check hb⟩
    · cases hb

end Sys2Proof.Machine
end

