-- ==== Sys2Proof/Laws/Ops.lean ====
section
/-! SUPPORT. What one micro-operation can do, said once: everything a transfer step does, and what no micro-operation
changes. -/

namespace Sys2Proof.Machine

/-- Everything a transfer step that is taken does (R131 to R138, R142). -/
theorem transferStep_moved {n : XferCount} {s t : State} (h : transferStep n s = .moved t) :
    (s.xstep.toNat = 0 ∧ t = nextX (clearFlags n s)) ∨
    (s.xstep.toNat = 1 ∧ t = nextX s) ∨
    (s.xstep.toNat = 2 ∧ s.follows = false ∧ t = nextX (countEdge { s with clkPort := true })) ∨
    (s.xstep.toNat = 2 ∧ s.follows = true ∧ s.sclObs = false ∧ t = nextX (countEdge s)) ∨
    (s.xstep.toNat = 3 ∧ s.sclObs = true ∧ t = nextX (shiftIn s)) ∨
    (s.xstep.toNat = 4 ∧ t = nextX (countLastEdge (clkLow s))) ∨
    (s.xstep.toNat = 5 ∧ t = loopTest s) ∨
    (s.xstep.toNat = 6 ∧ t = nextX s) ∨
    (s.xstep.toNat = 7 ∧ t = nextX (capture s)) ∨
    (s.xstep.toNat = 8 ∧ t = returnFromXfer s) := by
  unfold transferStep at h
  split at h
  case h_3 hx =>
    simp only [tglRise] at h
    split at h
    · next hf =>
      split at h
      · cases h
      · next hs => cases h; simp [hx, hf, hs]
    · next hf => cases h; simp [hx, hf]
  case h_4 hx =>
    simp only [waitHighAndSample] at h
    split at h
    · next hs => cases h; simp [hx, hs]
    · cases h
  case h_5 hx =>
    simp only [tglFall] at h
    cases h; simp [hx]
  case h_10 => cases h
  all_goals (next hx => cases h; simp [hx])

/-- A transfer step holds exactly at X3 with the clock low, and in FOLLOW at X2 with the clock high (R134, R142). -/
theorem transferStep_holds {n : XferCount} {s : State} :
    transferStep n s = .holds ↔
      (s.xstep.toNat = 3 ∧ s.sclObs = false) ∨ (s.xstep.toNat = 2 ∧ s.follows = true ∧ s.sclObs = true) := by
  unfold transferStep
  split
  case h_3 hx => cases hf : s.follows <;> cases hs : s.sclObs <;> simp [hx, tglRise, hf, hs]
  case h_4 hx => cases hs : s.sclObs <;> simp [hx, waitHighAndSample, hs]
  case h_5 hx => simp [hx, tglFall]
  case h_10 h0 h1 h2 h3 h4 h5 h6 h7 h8 => exact ⟨nofun, fun h => h.elim (fun k => (h3 k.1).elim) (fun k => (h2 k.1).elim)⟩
  all_goals (next hx => simp [hx])

/-- What no micro-operation changes: the configuration, the schedule, the peer's drives, CMDR, CLK_DIR, the fault bits, and,
before the line update, the observed levels and the latch. -/
structure Untouched (s t : State) : Prop where
  cfg : t.cfg = s.cfg
  sched : t.sched = s.sched
  envScl : t.envScl = s.envScl
  envSda : t.envSda = s.envSda
  cmdr : t.cmdr = s.cmdr
  clkDir : t.clkDir = s.clkDir
  fOrder : t.fOrder = s.fOrder
  fIllegal : t.fIllegal = s.fIllegal
  sclObs : t.sclObs = s.sclObs
  sdaObs : t.sdaObs = s.sdaObs
  dol : t.dol = s.dol

theorem Untouched.trans {s t u : State} (h : Untouched s t) (k : Untouched t u) : Untouched s u :=
  ⟨k.cfg.trans h.cfg, k.sched.trans h.sched, k.envScl.trans h.envScl, k.envSda.trans h.envSda, k.cmdr.trans h.cmdr,
    k.clkDir.trans h.clkDir, k.fOrder.trans h.fOrder, k.fIllegal.trans h.fIllegal, k.sclObs.trans h.sclObs,
    k.sdaObs.trans h.sdaObs, k.dol.trans h.dol⟩

theorem Setting.apply_untouched (x : Setting) (s : State) : Untouched s (x.apply s) := by
  cases x <;> exact ⟨rfl, rfl, rfl, rfl, rfl, rfl, rfl, rfl, rfl, rfl, rfl⟩

theorem GuardedSetting.apply_untouched (g : GuardedSetting) (s : State) : Untouched s (g.apply s) := by
  unfold GuardedSetting.apply
  split
  · exact g.setting.apply_untouched s
  · split
    · exact g.setting.apply_untouched s
    · exact ⟨rfl, rfl, rfl, rfl, rfl, rfl, rfl, rfl, rfl, rfl, rfl⟩

theorem settings_untouched (l : List GuardedSetting) (s : State) :
    Untouched s (l.foldl GuardedSetting.apply s) := by
  induction l generalizing s with
  | nil => exact ⟨rfl, rfl, rfl, rfl, rfl, rfl, rfl, rfl, rfl, rfl, rfl⟩
  | cons g l ih => exact (g.apply_untouched s).trans (ih _)

theorem ActionList.run_untouched (l : ActionList) (s : State) : Untouched s (l.run s) := by
  have h := settings_untouched l.settings s
  unfold ActionList.run
  split
  · exact ⟨h.cfg, h.sched, h.envScl, h.envSda, h.cmdr, h.clkDir, h.fOrder, h.fIllegal, h.sclObs, h.sdaObs, h.dol⟩
  · exact ⟨h.cfg, h.sched, h.envScl, h.envSda, h.cmdr, h.clkDir, h.fOrder, h.fIllegal, h.sclObs, h.sdaObs, h.dol⟩

theorem transferStep_untouched {n : XferCount} {s t : State} (h : transferStep n s = .moved t) : Untouched s t := by
  rcases transferStep_moved h with h | h | h | h | h | h | h | h | h | h
  all_goals
    first
    | obtain ⟨_, rfl⟩ := h
    | obtain ⟨_, _, rfl⟩ := h
    | obtain ⟨_, _, _, rfl⟩ := h
    exact ⟨rfl, rfl, rfl, rfl, rfl, rfl, rfl, rfl, rfl, rfl, rfl⟩

theorem MicroOp.run_untouched {op : MicroOp} {s t : State} (h : op.run s = .moved t) : Untouched s t := by
  cases op with
  | xfer n => exact transferStep_untouched h
  | set x =>
    simp only [MicroOp.run, MicroResult.moved.injEq] at h
    subst h
    have k := x.apply_untouched s
    exact ⟨k.cfg, k.sched, k.envScl, k.envSda, k.cmdr, k.clkDir, k.fOrder, k.fIllegal, k.sclObs, k.sdaObs, k.dol⟩
  | checkStart fail =>
    simp only [MicroOp.run, MicroResult.moved.injEq] at h
    subst h
    split
    · exact ⟨rfl, rfl, rfl, rfl, rfl, rfl, rfl, rfl, rfl, rfl, rfl⟩
    · exact fail.run_untouched s
  | ifThenElse c a b =>
    simp only [MicroOp.run, MicroResult.moved.injEq] at h
    subst h
    split
    · exact a.run_untouched s
    · exact b.run_untouched s
  | waitSclHigh | waitStartDet =>
    simp only [MicroOp.run] at h
    split at h
    · cases h; exact ⟨rfl, rfl, rfl, rfl, rfl, rfl, rfl, rfl, rfl, rfl, rfl⟩
    · cases h
  | _ =>
    simp only [MicroOp.run, MicroResult.moved.injEq] at h
    subst h
    exact ⟨rfl, rfl, rfl, rfl, rfl, rfl, rfl, rfl, rfl, rfl, rfl⟩

end Sys2Proof.Machine
end

