-- ==== Sys2Proof/Laws/PerInstr.lean ====
section
/-! SUPPORT. Facts about each command as syntax: its word matches the mask and match of its row in R82. -/

namespace Sys2Proof.Laws

/-- The row of R82 a command belongs to. -/
def rowOfInstr : Instr → Row
  | .cStart _ _ => .cStart
  | .cRstart _ _ => .cRstart
  | .cWrite _ => .cWrite
  | .cRead _ => .cRead
  | .cStop => .cStop
  | .pStart _ => .pStart
  | .pRead => .pRead
  | .pWrite _ => .pWrite

/-- "A word `w` selects a row when `(w AND mask) = match`" (R82): the word of a command selects its row, and no other. -/
def RowSelect.Statement (i : Instr) : Prop :=
  ∀ row : Row, encode i &&& row.mask = row.pattern ↔ row = rowOfInstr i

theorem RowSelect.cStart (f : Bool) (a : Addr) : RowSelect.Statement (.cStart f a) := by
  revert f a; unfold RowSelect.Statement; intro f a row; revert a
  cases f <;> cases row <;> decide

theorem RowSelect.cRstart (f : Bool) (a : Addr) : RowSelect.Statement (.cRstart f a) := by
  unfold RowSelect.Statement; intro row; revert a
  cases f <;> cases row <;> decide

theorem RowSelect.cWrite (d : Byte) : RowSelect.Statement (.cWrite d) := by
  unfold RowSelect.Statement; intro row; revert d
  cases row <;> decide

theorem RowSelect.cRead (more : Bool) : RowSelect.Statement (.cRead more) := by
  unfold RowSelect.Statement; intro row
  cases more <;> cases row <;> decide

theorem RowSelect.cStop : RowSelect.Statement .cStop := by
  unfold RowSelect.Statement; intro row
  cases row <;> decide

theorem RowSelect.pStart (own : Addr) : RowSelect.Statement (.pStart own) := by
  unfold RowSelect.Statement; intro row; revert own
  cases row <;> decide

theorem RowSelect.pRead : RowSelect.Statement .pRead := by
  unfold RowSelect.Statement; intro row
  cases row <;> decide

theorem RowSelect.pWrite (d : Byte) : RowSelect.Statement (.pWrite d) := by
  unfold RowSelect.Statement; intro row; revert d
  cases row <;> decide

end Sys2Proof.Laws
end

