-- ==== Sys2Proof/Laws/Steps.lean ====
section
/-! SUPPORT. What `exec` and `step` can do, said once: a command's acceptance, its engine steps, each agent's turn, and runs
of many steps. -/

namespace Sys2Proof.Machine

/-- `exec` of every command: an engine step of its micro-program while busy, its acceptance or refusal while idle. -/
theorem exec_eq (i : Instr) (s : State) :
    exec i s = runCommand i.role (encode i) (orderPermits i) (programOf i) s := by
  cases i <;>
    first
    | rfl
    | (simp only [exec, execCWrite, execCRead, execPRead, execPWrite, runCommand, Instr.role, programOf, orderPermits,
        dataPhase, exchangePhase]
       cases s.cstate <;> cases s.pstate <;> cases s.xdir <;> rfl)

theorem exec_busy {i : Instr} {s : State} (h : s.busy = true) : exec i s = engineStep (programOf i) s := by
  rw [exec_eq, runCommand, if_pos h]

theorem exec_idle {i : Instr} {s : State} (h : s.busy = false) :
    exec i s =
      if s.cfg.role = i.role then .next (lineUpdate (acceptCommand (encode i) (orderPermits i s) s))
      else .next (lineUpdate (refuseCommand (encode i) s)) := by
  rw [exec_eq, runCommand, if_neg (by simp [h])]

/-- An engine step that answers a next state either held or took the micro-operation CSTEP names. -/
theorem engineStep_next {prog : List MicroOp} {s t : State} (h : engineStep prog s = .next t) :
    ∃ op, prog[s.cstep.toNat]? = some op ∧
      ((op.run s = .holds ∧ t = s) ∨ ∃ u, op.run s = .moved u ∧ t = lineUpdate u) := by
  unfold engineStep at h
  split at h
  · cases h
  · next op hop =>
    refine ⟨op, hop, ?_⟩
    split at h
    · next u hu => cases h; exact .inr ⟨u, hu, rfl⟩
    · next hu => cases h; exact .inl ⟨hu, rfl⟩
    · cases h

theorem engineStep_moved {prog : List MicroOp} {s u : State} {op : MicroOp}
    (hop : prog[s.cstep.toNat]? = some op) (hu : op.run s = .moved u) :
    engineStep prog s = .next (lineUpdate u) := by
  simp [engineStep, hop, hu]

theorem engineStep_holds {prog : List MicroOp} {s : State} {op : MicroOp}
    (hop : prog[s.cstep.toNat]? = some op) (hu : op.run s = .holds) : engineStep prog s = .next s := by
  simp [engineStep, hop, hu]

/-- `xferAt` is right about the micro-programs: the step it names is an XFER step of that length. -/
theorem program_xferAt {i : Instr} {c : Nat} {n : XferCount} (h : xferAt i c = some n) :
    (programOf i)[c]? = some (.xfer n) := by
  unfold xferAt at h
  split at h <;> simp at h <;> subst h <;> rfl

/-- At an XFER step, `exec` is the transfer step XSTEP names (R105, R118). -/
theorem exec_xfer {i : Instr} {n : XferCount} {s : State} (hb : s.busy = true)
    (h : xferAt i s.cstep.toNat = some n) :
    exec i s = match transferStep n s with
      | .moved t => .next (lineUpdate t)
      | .holds => .next s
      | .noStep => .fault .offTransfer := by
  rw [exec_busy hb, engineStep, program_xferAt h]
  rfl

theorem engineTurn_idle {s : State} (h : s.busy = false) : engineTurn s = .next s := by
  simp [engineTurn, h]

theorem engineTurn_runs {i : Instr} {s : State} (h : s.runs i) : engineTurn s = exec i s := by
  simp [engineTurn, h.1, h.2]

theorem step_nil {s : State} (h : s.sched = []) : step s = engineTurn s := by
  simp [step, nextTurn, h]

theorem step_cons {s : State} {e : Event} {rest : List Event} (h : s.sched = e :: rest) :
    step s = turn e { s with sched := rest } := by
  simp [step, nextTurn, h]

/-- Every way a step answers a next state, by the agent that acts. -/
theorem step_next {s t : State} (h : step s = .next t) :
    (s.sched = [] ∧ engineTurn s = .next t) ∨
    (∃ rest, s.sched = .engine :: rest ∧ engineTurn { s with sched := rest } = .next t) ∨
    (∃ w rest, s.sched = .host w :: rest ∧ hostTurn w { s with sched := rest } = .next t) ∨
    (∃ c d rest, s.sched = .peer c d :: rest ∧ t = lineUpdate (setPeer c d { s with sched := rest })) ∨
    (∃ rest, s.sched = .reset :: rest ∧ t = resetBlock { s with sched := rest }) := by
  cases hs : s.sched with
  | nil => rw [step_nil hs] at h; exact .inl ⟨rfl, h⟩
  | cons e rest =>
    rw [step_cons hs] at h
    cases e with
    | engine => exact .inr (.inl ⟨rest, rfl, h⟩)
    | host w => exact .inr (.inr (.inl ⟨w, rest, rfl, h⟩))
    | peer c d =>
      simp only [turn, peerTurn, Host.Outcome.next.injEq] at h
      exact .inr (.inr (.inr (.inl ⟨c, d, rest, rfl, h.symm⟩)))
    | reset =>
      simp only [turn, resetTurn, Host.Outcome.next.injEq] at h
      exact .inr (.inr (.inr (.inr ⟨rest, rfl, h.symm⟩)))

/-- The engine's turn, if it answers a next state: idle, or an engine step of the command CMDR holds. -/
theorem engineTurn_next {s t : State} (h : engineTurn s = .next t) :
    (s.busy = false ∧ t = s) ∨ ∃ i, s.runs i ∧ exec i s = .next t := by
  unfold engineTurn at h
  split at h
  · next hb =>
    split at h
    · next i hi => exact .inr ⟨i, ⟨hb, hi⟩, h⟩
    · cases h
  · next hb => cases h; exact .inl ⟨by simpa using hb, rfl⟩

theorem run_succ_next {s u : State} {k : Nat} (h : step s = .next u) :
    Host.Core.run core (k + 1) s = Host.Core.run core k u := by
  have h' : core.step s = .next u := h
  simp [Host.Core.run, h']

/-- A run of `j + k` steps is a run of `j` steps and then one of `k`. -/
theorem run_add {s u : State} {j k : Nat} (h : Host.Core.run core j s = .next u) :
    Host.Core.run core (j + k) s = Host.Core.run core k u := by
  induction j generalizing s with
  | zero => simp only [Host.Core.run] at h; cases h; simp
  | succ j ih =>
    simp only [Host.Core.run] at h
    split at h
    · next v hv =>
      rw [show j + 1 + k = (j + k) + 1 by omega, run_succ_next hv]
      exact ih h
    · cases h
    · cases h

/-- What a run of `j + k` steps puts on the wire. -/
theorem wireTrace_add {s u : State} {j k : Nat} (h : Host.Core.run core j s = .next u) :
    wireTrace (j + k) s = wireTrace j s ++ wireTrace k u := by
  induction j generalizing s with
  | zero => simp only [Host.Core.run] at h; cases h; simp [wireTrace]
  | succ j ih =>
    simp only [Host.Core.run] at h
    split at h
    · next v hv =>
      have hv' : step s = .next v := hv
      rw [show j + 1 + k = (j + k) + 1 by omega]
      simp only [wireTrace, hv', ih h, List.append_assoc]
    · cases h
    · cases h

theorem issuedWords_succ {s t : State} {k : Nat} (h : step s = .next t) :
    issuedWords (k + 1) s = s.issues.toList ++ issuedWords k t := by
  simp only [issuedWords, h]

/-- The words issued in `j + k` steps. -/
theorem issuedWords_add {s u : State} {j k : Nat} (h : Host.Core.run core j s = .next u) :
    issuedWords (j + k) s = issuedWords j s ++ issuedWords k u := by
  induction j generalizing s with
  | zero => simp only [Host.Core.run] at h; cases h; simp [issuedWords]
  | succ j ih =>
    simp only [Host.Core.run] at h
    split at h
    · next v hv =>
      have hv' : step s = .next v := hv
      rw [show j + 1 + k = (j + k) + 1 by omega, issuedWords_succ hv', issuedWords_succ hv', ih h, List.append_assoc]
    · cases h
    · cases h

/-- The run of a program ends at one point, so it has one final state (R220). -/
theorem runEnded_unique {program : HostProgram} {s t u : State} {j k : Nat}
    (ht : RunEnded program j s t) (hu : RunEnded program k s u) : j = k ∧ t = u := by
  obtain hlt | heq | hlt := Nat.lt_trichotomy j k
  · exact absurd ht.conditions (hu.first j t hlt)
  · subst heq
    have h := ht.conditions.reached.symm.trans hu.conditions.reached
    exact ⟨rfl, by injection h⟩
  · exact absurd hu.conditions (ht.first k u hlt)

/-- A step issues a word exactly where HOST's offer meets an idle block. -/
theorem issues_eq_some {s : State} {w : Word} :
    s.issues = some w ↔ s.sched.head? = some (.host w) ∧ s.busy = false := by
  unfold State.issues
  split
  · next v hv => cases hb : s.busy <;> simp [hv]
  · next hn => simp; intro h; exact absurd h (hn w)

end Sys2Proof.Machine
end

