-- ==== Sys2Proof/Tests/Slice0.lean ====
section
/-! SUPPORT. The author's own tests: what WellFormed and the assembler refuse, words written out from the patterns of R82, one
step of each command with the value the spec gives, and for every statement with hypotheses a concrete state that meets them. -/

namespace Sys2Proof.Tests

open Sys2Proof.Machine

/-- The next state of an outcome. -/
def nextOf : Host.Outcome State Fault Refusal → Option State
  | .next t => some t
  | _ => none

/-- The documented configuration of a role (R5). -/
def docCfg (r : Role) : Config :=
  { role := r, matchMode := .rawByte, clockMode := .drive }

/-- A peripheral in FOLLOW mode (R142). -/
def followCfg : Config :=
  { role := .peripheral, matchMode := .rawByte, clockMode := .follow }

/-- The block after reset, with a configuration and a schedule. -/
def idleAt (cfg : Config) (l : List Event) : State :=
  { State.reset with cfg := cfg, sched := l }

/-- An idle block inside a transaction, its clock pulled low as R143 leaves it. -/
def inTransaction (r : Role) (dir : Bool) (l : List Event) : State :=
  { idleAt (docCfg r) l with
    clkPort := false, sclObs := false, ovf := true, cstate := .data, pstate := .dataExchange, xdir := dir, rspValid := true }

/-- The block executing `i` at a step, on released lines. -/
def busyAt (i : Instr) (c : BitVec 4) : State :=
  { idleAt (docCfg i.role) [] with cmdr := encode i, busy := true, cstep := c }

/-- C_WRITE at step `x` of its 8-bit transfer, clock low, CNT and OVF as R143 gives them in the first bit or after the last. -/
def writeAt (x : BitVec 4) (cnt : BitVec 5) (ovf : Bool) : State :=
  { busyAt (.cWrite 0xA5#8) 2#4 with
    xstep := x, cnt := cnt, ovf := ovf, xn := true, sr := 0xA5#8, clkPort := false, sclObs := false, cstate := .data }

/-! ### What is ill formed -/

theorem test_wellFormed_refuses_peripheral_command : ¬ Instr.WellFormed .controller (.pStart 0x28#7) := by decide
theorem test_wellFormed_refuses_controller_command : ¬ Instr.WellFormed .peripheral .cStop := by decide
theorem test_wellFormed_accepts_own_role : Instr.WellFormed .peripheral .pRead := by decide
theorem test_assembler_refuses_address_0x80 : assemble (.cStart (.hex [8, 0]) false) = none := by decide
theorem test_assembler_refuses_own_address_128 : assemble (.pStart (.decimal [1, 2, 8])) = none := by decide
theorem test_assembler_refuses_byte_256 : assemble (.cWrite (.decimal [2, 5, 6])) = none := by decide
theorem test_assembler_refuses_peripheral_byte_0x100 : assemble (.pWrite (.hex [1, 0, 0])) = none := by decide
theorem test_assembler_refuses_readbuf_0 : assemble (.cReadBuf (.decimal [0])) = none := by decide
theorem test_assembler_accepts_address_0x7F :
    assemble (.cStart (.hex [7, 15]) true) = some [0x187F#16] ∧ assemble (.pStart (.decimal [1, 2, 7])) = some [0x807F#16] := by
  decide
theorem test_assembler_accepts_byte_0xFF :
    assemble (.cWrite (.hex [15, 15])) = some [0x30FF#16] ∧ assemble (.pWrite (.decimal [2, 5, 5])) = some [0xA0FF#16] := by
  decide
theorem test_assembler_accepts_readbuf_1 : assemble (.cReadBuf (.decimal [1])) = some [0x4000#16] := by decide
/-- `C_READBUF 3` is `C_READ ACK`, `C_READ ACK`, `C_READ NACK` (R89). -/
theorem test_assembler_readbuf_3 :
    assemble (.cReadBuf (.decimal [3])) = some [0x4800#16, 0x4800#16, 0x4000#16] := by decide

/-! ### Words written out bit by bit from the patterns of R82 -/

theorem test_decode_cStart : decode .controller 0b0001100001010000#16 = .ok (.cStart true 0x50#7) := by rfl
theorem test_decode_cRstart : decode .controller 0b0010000001111111#16 = .ok (.cRstart false 0x7F#7) := by rfl
theorem test_decode_cWrite : decode .controller 0b0011000000010010#16 = .ok (.cWrite 0x12#8) := by rfl
theorem test_decode_cRead : decode .controller 0b0100000000000000#16 = .ok (.cRead false) := by rfl
theorem test_decode_cStop : decode .controller 0b0101000000000000#16 = .ok .cStop := by rfl
theorem test_decode_pStart : decode .peripheral 0b1000000000101000#16 = .ok (.pStart 0x28#7) := by rfl
theorem test_decode_pRead : decode .peripheral 0b1001000000000000#16 = .ok .pRead := by rfl
theorem test_decode_pWrite : decode .peripheral 0b1010000011111111#16 = .ok (.pWrite 0xFF#8) := by rfl
theorem test_decode_reserved_opcode : decode .controller 0b0110000000000000#16 = .error .reservedOpcode := by rfl
theorem test_decode_z_bit : decode .controller 0b0011000100000000#16 = .error .mustBeZero := by rfl
theorem test_decode_flag_bit : decode .peripheral 0b1010100000000000#16 = .error .mustBeZero := by rfl
theorem test_decode_read_operand : decode .controller 0b0100100000000001#16 = .error .mustBeZero := by rfl
theorem test_decode_address_bit_7 : decode .controller 0b0001000011010000#16 = .error .mustBeZero := by rfl
theorem test_decode_wrong_role : decode .peripheral 0b0101000000000000#16 = .error .wrongRole := by rfl
theorem test_decodeTableWord_length : decodeTableWord 8 0x50 = none ∧ decodeTableWord 16 0x5000 = some .cStop := by decide

/-! ### One step of each command -/

/-- R108: C_START step 3 pulls data low with the clock high, and the detector records the start. -/
theorem test_cStart_makes_a_start :
    (nextOf (step (busyAt (.cStart false 0x50#7) 3#4))).map (fun t => (t.sdaObs, t.startDet)) = some (false, true) := by
  decide
/-- R157, R152 step 10: the frame of `C_START 0x50, W` is 0xA0. -/
theorem test_cStart_loads_the_frame :
    (nextOf (step (busyAt (.cStart false 0x50#7) 10#4))).map (fun t => (t.sr, t.cstep)) = some (0xA0#8, 11#4) := by
  decide
/-- R153, R245: with no start recorded C_RSTART ends at its start check. -/
theorem test_cRstart_fails_its_start_check :
    (nextOf (step (busyAt (.cRstart true 0x50#7) 5#4))).map (fun t => (t.result, t.busy, t.rspValid)) =
      some (.startNotDetected, false, true) := by
  decide
/-- R134: X3 shifts the observed data level into bit 0, so the 0xA5 of R144 becomes 0x4B. -/
theorem test_cWrite_samples :
    (nextOf (step { writeAt 3#4 15#5 false with clkPort := true, sclObs := true })).map (fun t => (t.sr, t.xstep)) =
      some (0x4B#8, 4#4) := by
  decide
/-- R154 step 5: a NACK in DATA leads to WAIT_STOP. -/
theorem test_cWrite_nack :
    (nextOf (step { busyAt (.cWrite 0x12#8) 5#4 with tmp := 0xFF#8, cstate := .data })).map
      (fun t => (t.result, t.cstate)) = some (.nack, .waitStop) := by
  decide
/-- R158: with more = 1 the block loads the ACK pattern 0x00, and data goes low while the clock is low. -/
theorem test_cRead_loads_ack :
    (nextOf (step { busyAt (.cRead true) 3#4 with clkPort := false, sclObs := false })).map
      (fun t => (t.sr, t.sdaObs)) = some (0x00#8, false) := by
  decide
/-- R155 step 5: with more = 0 the result is OK and DATA becomes WAIT_STOP. -/
theorem test_cRead_last_byte :
    (nextOf (step { busyAt (.cRead false) 5#4 with cstate := .data, xdir := true })).map (fun t => (t.result, t.cstate)) =
      some (.ok, .waitStop) := by
  decide
/-- R240: C_STOP step 1 with the clock high is a start. -/
theorem test_cStop_with_the_clock_high :
    (nextOf (step { busyAt .cStop 1#4 with cstate := .stop })).map (fun t => t.startDet) = some true := by decide
/-- R182, R183: under RAW_BYTE own 0x28 does not match frame 0x50. -/
theorem test_pStart_mismatch :
    (nextOf (step { busyAt (.pStart 0x28#7) 6#4 with tmp := 0x50#8, pstate := .matchAddress })).map
      (fun t => (t.result, t.pstate, t.busy)) = some (.addressMismatch, .waitStart, false) := by
  decide
/-- R183: own 0x28 matches frame 0x28, with the direction of its bit 0. -/
theorem test_pStart_match :
    (nextOf (step { busyAt (.pStart 0x28#7) 6#4 with tmp := 0x28#8, pstate := .matchAddress, xdir := true })).map
      (fun t => (t.cstep, t.pstate, t.xdir)) = some (7#4, .ackAddress, false) := by
  decide
/-- R184 step 2: the byte read goes to RDATA. -/
theorem test_pRead_saves :
    (nextOf (step { busyAt .pRead 2#4 with tmp := 0x7E#8 })).map (fun t => t.rdata) = some 0x7E#8 := by decide
/-- R185 step 5: `P_WRITE` ends with NACK and WAIT_START when the controller NACKs. -/
theorem test_pWrite_nack :
    (nextOf (step { busyAt (.pWrite 0x5A#8) 5#4 with tmp := 0xFF#8, pstate := .dataExchange })).map
      (fun t => (t.result, t.pstate)) = some (.nack, .waitStart) := by
  decide
/-- R142: in FOLLOW mode the CLK_LOW of P_WRITE leaves CLK_PORT at 1. -/
theorem test_pWrite_follow_leaves_the_clock :
    (nextOf (step { busyAt (.pWrite 0x5A#8) 0#4 with cfg := followCfg })).map (fun t => (t.clkPort, t.cstep)) =
      some (true, 1#4) := by
  decide
/-- A placed word is the first thing that happens after reset. -/
theorem test_withFetchWord_accepts :
    (nextOf (step (State.reset.withFetchWord 16 0x8028))).map (fun t => (t.busy, t.cmdr, t.cfg.role)) =
      some (true, 0x8028#16, .peripheral) := by
  decide

/-! ### Concrete states -/

theorem idleAt_settled (cfg : Config) (l : List Event) : (idleAt cfg l).linesSettled :=
  ⟨rfl, nofun, rfl⟩

theorem busyAt_runs (i : Instr) (c : BitVec 4) (h : decode i.role (encode i) = .ok i) : (busyAt i c).runs i :=
  ⟨rfl, h⟩

/-! ### Witnesses: the hypotheses of each statement hold together -/

theorem witness_DecodeAndEncodeInverse : decodeWord 0x1850#16 = .ok (.cStart true 0x50#7) := by rfl

/-- The third clause at its bound 0x3F, and the fourth with both directions. -/
theorem witness_AddressMatchModes :
    addressMatch .rawByte (frame 0x3F#7 true) 0x7F#7 = true ∧ addressMatch .rawByte (frame 0x14#7 false) 0x28#7 = true := by
  decide

/-- Either side of the `if`. -/
theorem witness_IdleBlockAcceptsCommand :
    (idleAt (docCfg .controller) []).busy = false ∧ (idleAt (docCfg .controller) []).linesSettled ∧
    Instr.role .cStop = (docCfg .controller).role ∧ Instr.role .pRead ≠ (docCfg .controller).role :=
  ⟨rfl, idleAt_settled _ _, rfl, by decide⟩

theorem witness_HostOffersWord :
    (idleAt (docCfg .controller) [.host 0x5000#16]).sched = .host 0x5000#16 :: [] ∧
    (idleAt (docCfg .controller) [.host 0x5000#16]).linesSettled ∧
    (idleAt (docCfg .controller) [.host 0x5000#16]).busy = false ∧
    ({ idleAt (docCfg .controller) [.host 0x5000#16] with busy := true } : State).linesSettled ∧
    decode .controller 0x5000#16 = .ok .cStop ∧ decode .controller 0x8028#16 = .error .wrongRole :=
  ⟨rfl, idleAt_settled _ _, rfl, ⟨rfl, nofun, rfl⟩, rfl, rfl⟩

/-- One word for each of R85's cases. -/
theorem witness_IllegalWordRefused :
    (idleAt (docCfg .controller) [.host 0x0000#16]).busy = false ∧
    (idleAt (docCfg .controller) [.host 0x0000#16]).linesSettled ∧
    illegalWord .controller 0x0000#16 ∧ illegalWord .controller 0x3100#16 ∧ illegalWord .controller 0x3800#16 ∧
    illegalWord .controller 0x4001#16 ∧ illegalWord .controller 0x1080#16 ∧ illegalWord .controller 0x9000#16 ∧
    illegalWord .peripheral 0x5000#16 :=
  ⟨rfl, idleAt_settled _ _, by unfold illegalWord; decide, by unfold illegalWord; decide, by unfold illegalWord; decide,
    by unfold illegalWord; decide, by unfold illegalWord; decide, by unfold illegalWord; decide,
    by unfold illegalWord; decide⟩

theorem witness_StepRunsDecodedCommand :
    ((busyAt .cStop 0#4).sched = [] ∧ (busyAt .cStop 0#4).busy = true ∧
      decode (busyAt .cStop 0#4).cfg.role (busyAt .cStop 0#4).cmdr = .ok .cStop) ∧
    ({ busyAt .cStop 0#4 with sched := [.engine, .reset] } : State).sched = .engine :: [.reset] ∧
    ((idleAt (docCfg .controller) [.host 0x8028#16]).busy = false ∧ decodeWord 0x8028#16 = .ok (.pStart 0x28#7)) ∧
    ((idleAt (docCfg .controller) []).sched = [] ∧ (idleAt (docCfg .controller) []).busy = false) :=
  ⟨⟨rfl, rfl, rfl⟩, rfl, ⟨rfl, rfl⟩, ⟨rfl, rfl⟩⟩

theorem witness_PeerStep : ∃ s : State, s.sched = .peer false true :: [] ∧ s.busy = true :=
  ⟨{ busyAt .cStop 3#4 with sched := [.peer false true] }, rfl, rfl⟩

theorem witness_ResetStep : ∃ s : State, s.sched = .reset :: [.engine] ∧ s.busy = true :=
  ⟨{ busyAt .cStop 3#4 with sched := [.reset, .engine] }, rfl, rfl⟩

theorem witness_LinesAreWiredAnd : ∃ s t : State, s.linesSettled ∧ step s = .next t :=
  ⟨busyAt .cStop 1#4, _, ⟨rfl, nofun, rfl⟩, rfl⟩

/-- The clock high after the step, and low after it. -/
theorem witness_LatchFollowsWhileClockLow :
    (∃ s t : State, s.linesSettled ∧ s.sched.head? ≠ some .reset ∧ step s = .next t ∧ t.sclObs = true) ∧
    (∃ s t : State, s.linesSettled ∧ s.sched.head? ≠ some .reset ∧ step s = .next t ∧ t.sclObs = false) :=
  ⟨⟨idleAt (docCfg .controller) [.peer true false], _, idleAt_settled _ _, by decide, rfl, rfl⟩,
   ⟨idleAt (docCfg .controller) [.peer false true], _, idleAt_settled _ _, by decide, rfl, rfl⟩⟩

/-- A step that records a start, and the X0 step that clears one. -/
theorem witness_StartDetectorAndItsClearing :
    (∃ s t : State, s.sched.head? ≠ some .reset ∧ step s = .next t ∧ s.startDet = false ∧ t.startDet = true) ∧
    (∃ s t : State, s.sched.head? ≠ some .reset ∧ step s = .next t ∧ s.startDet = true ∧ s.clearsStart) :=
  ⟨⟨idleAt (docCfg .controller) [.peer true false], _, by decide, rfl, rfl, rfl⟩,
   ⟨{ writeAt 0#4 0#5 false with startDet := true }, _, by decide, rfl, rfl,
     .inl rfl, rfl, .cWrite 0xA5#8, ⟨rfl, rfl⟩, by decide⟩⟩

theorem witness_StopConditionIsSilent :
    ∃ s t : State, s.linesSettled ∧ s.sched = .peer true true :: [] ∧ step s = .next t ∧
      s.sclObs = true ∧ t.sclObs = true ∧ s.sdaObs = false ∧ t.sdaObs = true :=
  ⟨{ idleAt (docCfg .controller) [.peer true true] with envSda := false, sdaObs := false }, _, ⟨rfl, nofun, rfl⟩,
    rfl, rfl, rfl, rfl, rfl, rfl⟩

/-- C_START at its hold point, the peer holding the clock. -/
def heldStart : State :=
  { busyAt (.cStart false 0x50#7) 2#4 with cstate := .start, envScl := false, sclObs := false }

/-- C_RSTART, C_STOP and X3 of a transfer at their hold points. -/
def heldRstart : State :=
  { busyAt (.cRstart false 0x50#7) 2#4 with cstate := .start, envScl := false, sclObs := false }
def heldStop : State :=
  { busyAt .cStop 3#4 with
    cstate := .stop, datPort := false, sdaObs := false, envScl := false, sclObs := false }
def heldTransfer : State :=
  { writeAt 3#4 15#5 false with clkPort := true, envScl := false, dol := true }

/-- P_START waiting for a start. -/
def waitingStart : State :=
  busyAt (.pStart 0x28#7) 1#4

/-- P_READ in FOLLOW mode at X2, the controller leaving the clock high. -/
def heldFollow : State :=
  { busyAt .pRead 1#4 with cfg := followCfg, xstep := 2#4, cnt := 16#5, xn := true, datDir := false }

theorem heldFollow_inv : Inv heldFollow := inv_of_check (by decide)
theorem heldStart_inv : Inv heldStart := inv_of_check (by decide)
theorem heldRstart_inv : Inv heldRstart := inv_of_check (by decide)
theorem heldStop_inv : Inv heldStop := inv_of_check (by decide)
theorem heldTransfer_inv : Inv heldTransfer := inv_of_check (by decide)
theorem waitingStart_inv : Inv waitingStart := inv_of_check (by decide)

/-- Every kind of hold point of R207, and a state that is none. -/
theorem witness_HoldsAndHangs :
    (Inv heldStart ∧ heldStart.runs (.cStart false 0x50#7) ∧
      holdPoint (.cStart false 0x50#7) heldStart) ∧
    (Inv heldRstart ∧ heldRstart.runs (.cRstart false 0x50#7) ∧
      holdPoint (.cRstart false 0x50#7) heldRstart) ∧
    (Inv heldStop ∧ heldStop.runs .cStop ∧ holdPoint .cStop heldStop) ∧
    (Inv waitingStart ∧ waitingStart.runs (.pStart 0x28#7) ∧
      holdPoint (.pStart 0x28#7) waitingStart) ∧
    (Inv heldTransfer ∧ heldTransfer.runs (.cWrite 0xA5#8) ∧
      holdPoint (.cWrite 0xA5#8) heldTransfer) ∧
    (Inv heldFollow ∧ heldFollow.runs .pRead ∧ followHold .pRead heldFollow) ∧
    (Inv (busyAt .cStop 0#4) ∧ (busyAt .cStop 0#4).runs .cStop ∧ ¬ holdPoint .cStop (busyAt .cStop 0#4)) ∧
    (∀ e ∈ [Event.engine, .host 0x5000#16], e = .engine ∨ ∃ w, e = .host w) :=
  ⟨⟨heldStart_inv, ⟨rfl, rfl⟩, rfl⟩, ⟨heldRstart_inv, ⟨rfl, rfl⟩, rfl⟩, ⟨heldStop_inv, ⟨rfl, rfl⟩, rfl⟩,
   ⟨waitingStart_inv, ⟨rfl, rfl⟩, rfl⟩, ⟨heldTransfer_inv, ⟨rfl, rfl⟩, by decide, rfl, rfl⟩,
   ⟨heldFollow_inv, ⟨rfl, rfl⟩, rfl, by decide, rfl, rfl⟩,
   ⟨inv_of_check (by decide), ⟨rfl, rfl⟩, fun h => h.1 rfl⟩, by simp⟩

/-- A reset, a step that leaves the hold, a peer that lifts a clock hold, the wait for a start and FOLLOW's hold, and a clock
rise that leaves P_START waiting. -/
theorem witness_OnlyPeerOrResetLiftsHold :
    (∃ t, Inv { heldStart with sched := [.reset] } ∧ step { heldStart with sched := [.reset] } = .next t ∧
      t.busy = false) ∧
    (∃ t, step { heldStart with sched := [.engine] } = .next t ∧ t.sclObs = false) ∧
    (∃ t, Inv { heldStart with sched := [.peer true true] } ∧ step { heldStart with sched := [.peer true true] } = .next t ∧
      t.sclObs = true) ∧
    (∃ t, Inv { waitingStart with sched := [.peer true false] } ∧
      step { waitingStart with sched := [.peer true false] } = .next t ∧ t.startDet = true) ∧
    (∃ t, Inv { heldFollow with sched := [.peer false true] } ∧
      step { heldFollow with sched := [.peer false true] } = .next t ∧ t.sclObs = false) ∧
    (∃ t, Inv { waitingStart with sched := [.peer true true], envScl := false, sclObs := false } ∧
      step { waitingStart with sched := [.peer true true], envScl := false, sclObs := false } = .next t ∧
      t.sclObs = true ∧ t.startDet = false) :=
  ⟨⟨_, inv_of_check (by decide), rfl, rfl⟩, ⟨_, rfl, rfl⟩, ⟨_, inv_of_check (by decide), rfl, rfl⟩,
   ⟨_, inv_of_check (by decide), rfl, rfl⟩, ⟨_, inv_of_check (by decide), rfl, rfl⟩,
   ⟨_, inv_of_check (by decide), rfl, rfl, rfl⟩⟩

/-- P_START in DRIVE mode after a transaction, its own pull on the clock in force. -/
def deadlocked : State :=
  { busyAt (.pStart 0x28#7) 1#4 with clkPort := false, sclObs := false, ovf := true }

theorem witness_DriveModeDeadlock :
    Inv deadlocked ∧ deadlocked.runs (.pStart 0x28#7) ∧ deadlocked.cstep = 1#4 ∧ deadlocked.follows = false ∧
    deadlocked.clkPort = false ∧ deadlocked.startDet = false ∧
    ∀ e ∈ [Event.peer true false, .engine, .host 0x8028#16], e ≠ .reset :=
  ⟨inv_of_check (by decide), ⟨rfl, rfl⟩, rfl, rfl, rfl, rfl, by decide⟩

/-- Every XSTEP, for both lengths of transfer and both levels of the clock at X3. -/
theorem witness_TransferSteps :
    (∀ x : BitVec 4, (writeAt x 2#5 true).busy = true ∧
      xferAt (.cWrite 0xA5#8) (writeAt x 2#5 true).cstep.toNat = some .eight ∧ (writeAt x 2#5 true).follows = false ∧
      (writeAt x 2#5 true).xstep = x ∧ (writeAt x 2#5 true).sclObs = false) ∧
    xferAt (.pStart 0x28#7) (busyAt (.pStart 0x28#7) 8#4).cstep.toNat = some .one ∧
    ({ busyAt (.pStart 0x28#7) 8#4 with xstep := 3#4 } : State).sclObs = true := by
  decide

/-- P_READ in FOLLOW mode at each XSTEP, clock high and low, and P_WRITE at step 0. -/
theorem witness_FollowTransferSteps :
    (∀ x : BitVec 4, ∀ scl : Bool,
      ({ busyAt .pRead 1#4 with cfg := followCfg, xstep := x, sclObs := scl } : State).busy = true ∧
      xferAt .pRead 1 = some .eight ∧
      ({ busyAt .pRead 1#4 with cfg := followCfg, xstep := x, sclObs := scl } : State).follows = true) ∧
    ({ busyAt (.pWrite 0x5A#8) 0#4 with cfg := followCfg } : State).follows = true := by
  decide

theorem witness_FollowTransferSteps_inv :
    ∃ s t : State, Inv s ∧ s.follows = true ∧ step s = .next t :=
  ⟨{ busyAt (.pWrite 0x5A#8) 0#4 with cfg := followCfg }, _, inv_of_check (by decide), rfl, rfl⟩

/-- A peripheral in FOLLOW mode at step `c` of `i`, the peer holding the clock low. -/
def followAt (i : Instr) (c : BitVec 4) (sr : Byte) (datDir : Bool) (l : List Event) : State :=
  { busyAt i c with
    cfg := followCfg, sr := sr, datDir := datDir, envScl := false, sclObs := false, dol := sr.getLsbD 7,
    sdaObs := !datDir || sr.getLsbD 7, sched := l }

/-- The FOLLOW clauses of ByteTransmitted, ByteReceived and OneBitTransferred (V-X7's byte 0x3C; P_WRITE's byte 0x5A). -/
theorem witness_FollowTransfers :
    (∃ s : State, s.runs (.pWrite 0x5A#8) ∧ xferAt (.pWrite 0x5A#8) s.cstep.toNat = some .eight ∧ s.xstep = 0#4 ∧
      s.follows = true ∧ s.clkPort = true ∧ s.envScl = false ∧ s.datDir = true ∧ s.datPort = true ∧
      s.sched = followTransferSched (wireBits 0xFF#8)) ∧
    (∃ s : State, s.runs .pRead ∧ xferAt .pRead s.cstep.toNat = some .eight ∧ s.xstep = 0#4 ∧
      s.follows = true ∧ s.clkPort = true ∧ s.datDir = false ∧ s.sched = followTransferSched (wireBits 0x3C#8) ∧
      s.envScl = false) ∧
    (∃ s : State, s.runs (.pWrite 0x5A#8) ∧ xferAt (.pWrite 0x5A#8) s.cstep.toNat = some .one ∧ s.xstep = 0#4 ∧
      s.follows = true ∧ s.clkPort = true ∧ s.envScl = false ∧ s.datPort = true ∧ s.sched = followTransferSched [true] ∧
      s.datDir = false) :=
  ⟨⟨followAt (.pWrite 0x5A#8) 2#4 0x5A#8 true (followTransferSched (wireBits 0xFF#8)),
     ⟨rfl, rfl⟩, rfl, rfl, rfl, rfl, rfl, rfl, rfl, rfl⟩,
   ⟨followAt .pRead 1#4 0xFF#8 false (followTransferSched (wireBits 0x3C#8)),
     ⟨rfl, rfl⟩, rfl, rfl, rfl, rfl, rfl, rfl, rfl⟩,
   ⟨followAt (.pWrite 0x5A#8) 4#4 0xFF#8 false (followTransferSched [true]),
     ⟨rfl, rfl⟩, rfl, rfl, rfl, rfl, rfl, rfl, rfl, rfl⟩⟩

theorem witness_ByteTransmitted :
    ({ writeAt 0#4 0#5 false with sched := transferSched (wireBits 0xFF#8) } : State).runs (.cWrite 0xA5#8) ∧
    xferAt (.cWrite 0xA5#8) 2 = some .eight ∧ (writeAt 0#4 0#5 false).follows = false ∧
    (writeAt 0#4 0#5 false).xstep = 0#4 ∧ (writeAt 0#4 0#5 false).clkDir = true ∧
    (writeAt 0#4 0#5 false).clkPort = false ∧ (writeAt 0#4 0#5 false).datDir = true ∧
    (writeAt 0#4 0#5 false).datPort = true :=
  ⟨⟨rfl, rfl⟩, rfl, rfl, rfl, rfl, rfl, rfl, rfl⟩

/-- The clock high at the start, and low. -/
theorem witness_ByteReceived :
    (∃ s : State, s.runs (.cRead true) ∧ xferAt (.cRead true) s.cstep.toNat = some .eight ∧ s.xstep = 0#4 ∧
      s.follows = false ∧ s.clkDir = true ∧ s.datDir = false ∧ s.sched = transferSched (wireBits 0xC3#8) ∧
      s.clkPort = true) ∧
    (∃ s : State, s.runs (.cRead true) ∧ xferAt (.cRead true) s.cstep.toNat = some .eight ∧ s.xstep = 0#4 ∧
      s.follows = false ∧ s.clkDir = true ∧ s.datDir = false ∧ s.sched = transferSched (wireBits 0xC3#8) ∧
      s.clkPort = false) :=
  ⟨⟨{ busyAt (.cRead true) 1#4 with datDir := false, sched := transferSched (wireBits 0xC3#8) },
     ⟨rfl, rfl⟩, rfl, rfl, rfl, rfl, rfl, rfl, rfl⟩,
   ⟨{ busyAt (.cRead true) 1#4 with
      datDir := false, clkPort := false, sclObs := false, sched := transferSched (wireBits 0xC3#8) },
     ⟨rfl, rfl⟩, rfl, rfl, rfl, rfl, rfl, rfl, rfl⟩⟩

/-- Listening (C_WRITE's ACK bit) and sending (C_READ's). -/
theorem witness_OneBitTransferred :
    (∃ s : State, s.runs (.cWrite 0x12#8) ∧ xferAt (.cWrite 0x12#8) s.cstep.toNat = some .one ∧ s.xstep = 0#4 ∧
      s.follows = false ∧ s.clkDir = true ∧ s.clkPort = false ∧ s.datPort = true ∧ s.sched = transferSched [true] ∧
      s.datDir = false) ∧
    (∃ s : State, s.runs (.cRead true) ∧ xferAt (.cRead true) s.cstep.toNat = some .one ∧ s.xstep = 0#4 ∧
      s.follows = false ∧ s.clkDir = true ∧ s.clkPort = false ∧ s.datPort = true ∧ s.sched = transferSched [true] ∧
      s.datDir = true) :=
  ⟨⟨{ busyAt (.cWrite 0x12#8) 4#4 with datDir := false, clkPort := false, sclObs := false, sched := transferSched [true] },
     ⟨rfl, rfl⟩, rfl, rfl, rfl, rfl, rfl, rfl, rfl, rfl⟩,
   ⟨{ busyAt (.cRead true) 4#4 with sr := 0x00#8, clkPort := false, sclObs := false, sched := transferSched [true] },
     ⟨rfl, rfl⟩, rfl, rfl, rfl, rfl, rfl, rfl, rfl, rfl⟩⟩

theorem witness_CaptureReleasesData :
    (Inv (writeAt 7#4 0#5 true) ∧ (writeAt 7#4 0#5 true).runs (.cWrite 0xA5#8) ∧
      xferAt (.cWrite 0xA5#8) (writeAt 7#4 0#5 true).cstep.toNat = some .eight ∧ (writeAt 7#4 0#5 true).follows = false ∧
      (writeAt 7#4 0#5 true).xstep = 7#4) ∧
    Inv { writeAt 8#4 0#5 true with sr := 0xFF#8 } :=
  ⟨⟨inv_of_check (by decide), ⟨rfl, rfl⟩, rfl, rfl, rfl⟩, inv_of_check (by decide)⟩

/-- Every step of every micro-program, on released lines, so with the clock high; START_DET both 0 and 1. -/
theorem witness_steps :
    (∀ c : BitVec 4, ∀ d : Bool,
      ({ busyAt (.cStart false 0x50#7) c with startDet := d } : State).busy = true ∧
      (busyAt (.cStart false 0x50#7) c).cfg.role = .controller ∧ (busyAt (.cRstart false 0x50#7) c).cfg.role = .controller ∧
      (busyAt (.cWrite 0x12#8) c).cfg.role = .controller ∧ (busyAt (.cRead true) c).cfg.role = .controller ∧
      (busyAt .cStop c).cfg.role = .controller ∧ (busyAt .cStop c).busy = true ∧
      (busyAt .cStop c).cstep = c ∧ (busyAt .cStop c).sclObs = true) := by
  decide

/-- Both branches of P_START's comparison, and P_WRITE outside FOLLOW. -/
theorem witness_peripheral_steps :
    ({ busyAt (.pStart 0x28#7) 1#4 with startDet := true } : State).busy = true ∧
    addressMatch (busyAt (.pStart 0x28#7) 6#4).cfg.matchMode 0x28#8 0x28#7 = true ∧
    addressMatch (busyAt (.pStart 0x28#7) 6#4).cfg.matchMode 0x50#8 0x28#7 = false ∧
    (busyAt .pRead 5#4).busy = true ∧ (busyAt (.pWrite 0x5A#8) 0#4).busy = true ∧
    (busyAt (.pWrite 0x5A#8) 0#4).follows = false := by
  decide

theorem witness_StartNotDetectedResult :
    (∃ t, exec (.cStart false 0x50#7) (busyAt (.cStart false 0x50#7) 6#4) = .next t ∧ t.busy = false) ∧
    (∃ t, exec (.cRstart false 0x50#7) { busyAt (.cRstart false 0x50#7) 5#4 with startDet := true } = .next t ∧
      t.busy = true) ∧
    (∃ s : State, Inv s ∧ s.busy = false ∧ s.cfg.role = .controller ∧ s.envScl = true ∧ s.envSda = false ∧
      s.startDet = false ∧ s.sched = .host (encode (.cStart false 0x50#7)) :: engines 7) :=
  ⟨⟨_, rfl, rfl⟩, ⟨_, rfl, rfl⟩,
   ⟨{ idleAt (docCfg .controller) (.host (encode (.cStart false 0x50#7)) :: engines 7) with envSda := false, sdaObs := false },
     inv_of_check (by decide), rfl, rfl, rfl, rfl, rfl, rfl⟩⟩

/-- Each of the four commands at its branch. -/
theorem witness_NackResult :
    (∃ t, exec (.cStart false 0x50#7) (busyAt (.cStart false 0x50#7) 14#4) = .next t) ∧
    (∃ t, exec (.cRstart false 0x50#7) (busyAt (.cRstart false 0x50#7) 13#4) = .next t) ∧
    (∃ t, exec (.cWrite 0x12#8) (busyAt (.cWrite 0x12#8) 5#4) = .next t) ∧
    (∃ t, exec (.pWrite 0x5A#8) (busyAt (.pWrite 0x5A#8) 5#4) = .next t) :=
  ⟨⟨_, rfl⟩, ⟨_, rfl⟩, ⟨_, rfl⟩, ⟨_, rfl⟩⟩

theorem witness_AddressMismatchResult :
    ∃ s : State, Inv s ∧ s.runs (.pStart 0x28#7) ∧ s.cstep = 6#4 ∧
      addressMatch s.cfg.matchMode s.tmp 0x28#7 = false ∧ s.follows = false :=
  ⟨{ busyAt (.pStart 0x28#7) 6#4 with
     tmp := 0x50#8, pstate := .matchAddress, clkPort := false, sclObs := false, ovf := true },
    inv_of_check (by decide), ⟨rfl, rfl⟩, rfl, rfl, rfl⟩

/-- A command ended by its own step, and one ended by reset. -/
theorem witness_CommandResults :
    (∃ t, (busyAt .cStop 7#4).runs .cStop ∧ (busyAt .cStop 7#4).engineActs ∧ step (busyAt .cStop 7#4) = .next t ∧
      t.busy = false) ∧
    (∃ t, step { busyAt .cStop 3#4 with sched := [.reset] } = .next t ∧ t.busy = false) :=
  ⟨⟨_, ⟨rfl, rfl⟩, .inl rfl, rfl, rfl⟩, ⟨_, rfl, rfl⟩⟩

/-! Schedules of whole commands, with the peer of the spec's examples. -/

def cStartSched : List Event :=
  .host (encode (.cStart false 0x50#7)) :: (engines 11 ++ transferSched (wireBits 0xFF#8) ++ engines 1 ++ transferSched [false] ++ engines 1)
def cWriteSched : List Event :=
  .host (encode (.cWrite 0x12#8)) :: (engines 2 ++ transferSched (wireBits 0xFF#8) ++ engines 1 ++ transferSched [true] ++ engines 1)
def cReadSched : List Event :=
  .host (encode (.cRead true)) :: (engines 1 ++ transferSched (wireBits 0xC3#8) ++ engines 2 ++ transferSched [true] ++ engines 1)
def cStopSched : List Event :=
  .host (encode .cStop) :: engines 8
def pReadSched : List Event :=
  .host (encode (.pRead)) :: (engines 1 ++ transferSched (wireBits 0x7E#8) ++ engines 2 ++ transferSched [true] ++ engines 1)
def pWriteSched : List Event :=
  .host (encode (.pWrite 0x5A#8)) :: (engines 2 ++ transferSched (wireBits 0xFF#8) ++ engines 1 ++ transferSched [true] ++ engines 1)
def cRstartQuietSched : List Event :=
  .host (encode (.cRstart true 0x50#7)) :: engines 6
def cRstartSched : List Event :=
  .host (encode (.cRstart true 0x50#7)) ::
    (engines 10 ++ transferSched (wireBits 0xFF#8) ++ engines 1 ++ transferSched [false] ++ engines 1)
def pStartMatchSched : List Event :=
  .host (encode (.pStart 0x28#7)) :: .engine :: .peer true false ::
    (engines 3 ++ transferSched (wireBits 0x28#8) ++ engines 3 ++ transferSched [true] ++ engines 2)
def pStartMismatchSched : List Event :=
  .host (encode (.pStart 0x28#7)) :: .engine :: .peer true false ::
    (engines 3 ++ transferSched (wireBits 0x50#8) ++ engines 2)

/-- After reset, and inside a transaction (the clock low). -/
theorem witness_CStartWholeCommand :
    (Inv (idleAt (docCfg .controller) cStartSched) ∧ (idleAt (docCfg .controller) cStartSched).busy = false ∧
      (idleAt (docCfg .controller) cStartSched).cfg.role = .controller ∧ (idleAt (docCfg .controller) cStartSched).envScl = true ∧
      (idleAt (docCfg .controller) cStartSched).envSda = true ∧ (idleAt (docCfg .controller) cStartSched).sched = cStartSched) ∧
    (Inv (inTransaction .controller true cStartSched) ∧ (inTransaction .controller true cStartSched).sched = cStartSched) :=
  ⟨⟨inv_of_check (by decide), rfl, rfl, rfl, rfl, rfl⟩, inv_of_check (by decide), rfl⟩

/-- With no start recorded, and with one. -/
theorem witness_CRstartWholeCommand :
    (Inv (idleAt (docCfg .controller) cRstartQuietSched) ∧ (idleAt (docCfg .controller) cRstartQuietSched).busy = false ∧
      (idleAt (docCfg .controller) cRstartQuietSched).startDet = false ∧
      (idleAt (docCfg .controller) cRstartQuietSched).envScl = true) ∧
    (∃ s : State, Inv s ∧ s.busy = false ∧ s.cfg.role = .controller ∧ s.envScl = true ∧ s.startDet = true ∧
      s.sched = cRstartSched) :=
  ⟨⟨inv_of_check (by decide), rfl, rfl, rfl⟩,
   ⟨{ idleAt (docCfg .controller) cRstartSched with startDet := true }, inv_of_check (by decide), rfl, rfl, rfl, rfl, rfl⟩⟩

/-- In order and out of order. -/
theorem witness_CWriteWholeCommand :
    (Inv (inTransaction .controller false cWriteSched) ∧ (inTransaction .controller false cWriteSched).busy = false ∧
      (inTransaction .controller false cWriteSched).cfg.role = .controller ∧ (inTransaction .controller false cWriteSched).sched = cWriteSched) ∧
    Inv (idleAt (docCfg .controller) cWriteSched) :=
  ⟨⟨inv_of_check (by decide), rfl, rfl, rfl⟩, inv_of_check (by decide)⟩

/-- With the clock low (the last clause) and high. -/
theorem witness_CReadWholeCommand :
    (Inv (inTransaction .controller true cReadSched) ∧ (inTransaction .controller true cReadSched).clkPort = false ∧
      (inTransaction .controller true cReadSched).busy = false ∧ (inTransaction .controller true cReadSched).sched = cReadSched) ∧
    (Inv (idleAt (docCfg .controller) cReadSched) ∧ (idleAt (docCfg .controller) cReadSched).clkPort = true) :=
  ⟨⟨inv_of_check (by decide), rfl, rfl, rfl⟩, inv_of_check (by decide), rfl⟩

/-- With the clock high (S then P on the wire) and low. -/
theorem witness_CStopWholeCommand :
    (Inv (idleAt (docCfg .controller) cStopSched) ∧ (idleAt (docCfg .controller) cStopSched).clkPort = true ∧
      (idleAt (docCfg .controller) cStopSched).envSda = true) ∧
    (Inv (inTransaction .controller false cStopSched) ∧ (inTransaction .controller false cStopSched).clkPort = false ∧
      (inTransaction .controller false cStopSched).envScl = true ∧ (inTransaction .controller false cStopSched).envSda = true ∧
      (inTransaction .controller false cStopSched).busy = false) :=
  ⟨⟨inv_of_check (by decide), rfl, rfl⟩, inv_of_check (by decide), rfl, rfl, rfl, rfl⟩

def stopThenStartSched : List Event :=
  .host (encode .cStop) :: (engines 8 ++ .host (encode (.cStart false 0x50#7)) ::
    (engines 11 ++ transferSched (wireBits 0xFF#8) ++ engines 1 ++ transferSched [false] ++ engines 1))

theorem witness_StopThenStart :
    ∃ s : State, Inv s ∧ s.busy = false ∧ s.cfg.role = .controller ∧ s.envScl = true ∧ s.envSda = true ∧
      s.sched = stopThenStartSched :=
  ⟨inTransaction .controller false stopThenStartSched, inv_of_check (by decide), rfl, rfl, rfl, rfl, rfl⟩

/-- The program of one C_STOP ends after its nine steps: after none no word is issued, after one to eight the block is busy. -/
theorem witness_EndedRunReportsLastWord : ∃ t, RunEnded ([] ++ [0x5000#16]) 9 (idleAt (docCfg .controller) cStopSched) t :=
  ⟨_, ⟨rfl, rfl, ⟨rfl, rfl⟩, ⟨rfl, rfl⟩⟩, fun j u hj h => by
    interval_cases j <;> obtain rfl := Host.Outcome.next.inj h.reached <;>
      first
      | exact absurd h.lastWordIssued (by decide)
      | exact absurd h.lastWordFinished.1 (by decide)⟩

/-- A frame that matches, with bit 7 = 0, and one that does not. -/
theorem witness_PStartWholeCommand :
    (∃ s : State, Inv s ∧ s.busy = false ∧ s.cfg.role = .peripheral ∧ s.follows = false ∧ s.envScl = true ∧
      s.envSda = true ∧ s.clkPort = true ∧ s.startDet = false ∧ s.sched = pStartMatchSched ∧
      addressMatch s.cfg.matchMode 0x28#8 0x28#7 = true ∧ (0x28#8).getLsbD 7 = false) ∧
    (∃ s : State, Inv s ∧ s.busy = false ∧ s.cfg.role = .peripheral ∧ s.follows = false ∧ s.envScl = true ∧
      s.envSda = true ∧ s.clkPort = true ∧ s.startDet = false ∧ s.sched = pStartMismatchSched ∧
      addressMatch s.cfg.matchMode 0x50#8 0x28#7 = false ∧ (0x50#8).getLsbD 7 = false) :=
  ⟨⟨idleAt (docCfg .peripheral) pStartMatchSched, inv_of_check (by decide), rfl, rfl, rfl, rfl, rfl, rfl, rfl, rfl, rfl,
     rfl⟩,
   ⟨idleAt (docCfg .peripheral) pStartMismatchSched, inv_of_check (by decide), rfl, rfl, rfl, rfl, rfl, rfl, rfl, rfl,
     rfl, rfl⟩⟩

/-- In order, with the clock low, and out of order. -/
theorem witness_PReadWholeCommand :
    (Inv (inTransaction .peripheral false pReadSched) ∧ (inTransaction .peripheral false pReadSched).busy = false ∧
      (inTransaction .peripheral false pReadSched).cfg.role = .peripheral ∧ (inTransaction .peripheral false pReadSched).follows = false ∧
      (inTransaction .peripheral false pReadSched).clkPort = false ∧ (inTransaction .peripheral false pReadSched).sched = pReadSched) ∧
    Inv (idleAt (docCfg .peripheral) pReadSched) :=
  ⟨⟨inv_of_check (by decide), rfl, rfl, rfl, rfl, rfl⟩, inv_of_check (by decide)⟩

/-- The FOLLOW clauses of the peripheral's whole commands: idle, the peer holding the clock low (P_READ, P_WRITE) and both lines
high (P_START, on a match and on a mismatch). -/
def followIdle (l : List Event) : State :=
  { idleAt followCfg l with envScl := false, sclObs := false }

def followReadSched : List Event :=
  .host (encode .pRead) ::
    (engines 1 ++ followTransferSched (wireBits 0x3C#8) ++ engines 2 ++ followTransferSched [true] ++ engines 1)
def followWriteSched : List Event :=
  .host (encode (.pWrite 0x5A#8)) ::
    (engines 2 ++ followTransferSched (wireBits 0xFF#8) ++ engines 1 ++ followTransferSched [true] ++ engines 1)
def followMatchSched : List Event :=
  .host (encode (.pStart 0x28#7)) :: .engine :: .peer true false ::
    (engines 3 ++ followTransferSched (wireBits 0x28#8) ++ engines 3 ++ followTransferSched [true] ++ engines 2)
def followMismatchSched : List Event :=
  .host (encode (.pStart 0x28#7)) :: .engine :: .peer true false ::
    (engines 3 ++ followTransferSched (wireBits 0x50#8) ++ engines 2)

theorem witness_FollowWholeCommands :
    (∃ s : State, Inv s ∧ s.busy = false ∧ s.follows = true ∧ s.envScl = false ∧ s.sched = followReadSched) ∧
    (∃ s : State, Inv s ∧ s.busy = false ∧ s.follows = true ∧ s.envScl = false ∧ s.sched = followWriteSched) ∧
    (∃ s : State, Inv s ∧ s.busy = false ∧ s.follows = true ∧ s.envScl = true ∧ s.envSda = true ∧ s.sdaObs = true ∧
      s.startDet = false ∧ addressMatch s.cfg.matchMode 0x28#8 0x28#7 = true ∧ s.sched = followMatchSched) ∧
    (∃ s : State, Inv s ∧ s.busy = false ∧ s.follows = true ∧ s.envScl = true ∧ s.envSda = true ∧ s.sdaObs = true ∧
      s.startDet = false ∧ addressMatch s.cfg.matchMode 0x50#8 0x28#7 = false ∧ s.sched = followMismatchSched) :=
  ⟨⟨followIdle followReadSched, inv_of_check (by decide), rfl, rfl, rfl, rfl⟩,
   ⟨followIdle followWriteSched, inv_of_check (by decide), rfl, rfl, rfl, rfl⟩,
   ⟨idleAt followCfg followMatchSched, inv_of_check (by decide), rfl, rfl, rfl, rfl, rfl, rfl, rfl, rfl⟩,
   ⟨idleAt followCfg followMismatchSched, inv_of_check (by decide), rfl, rfl, rfl, rfl, rfl, rfl, rfl, rfl⟩⟩

theorem witness_PWriteWholeCommand :
    (Inv (inTransaction .peripheral true pWriteSched) ∧ (inTransaction .peripheral true pWriteSched).busy = false ∧
      (inTransaction .peripheral true pWriteSched).cfg.role = .peripheral ∧ (inTransaction .peripheral true pWriteSched).follows = false ∧
      (inTransaction .peripheral true pWriteSched).sched = pWriteSched) ∧
    Inv (idleAt (docCfg .peripheral) pWriteSched) :=
  ⟨⟨inv_of_check (by decide), rfl, rfl, rfl, rfl⟩, inv_of_check (by decide)⟩

/-- A step of every command, for the five frame statements. -/
theorem witness_frames :
    (∃ t, (busyAt (.cStart false 0x50#7) 3#4).busy = true ∧
      exec (.cStart false 0x50#7) (busyAt (.cStart false 0x50#7) 3#4) = .next t) ∧
    (∃ t, exec (.cRstart false 0x50#7) (busyAt (.cRstart false 0x50#7) 3#4) = .next t) ∧
    (∃ t, (busyAt (.cWrite 0x12#8) 1#4).busy = true ∧ exec (.cWrite 0x12#8) (busyAt (.cWrite 0x12#8) 1#4) = .next t) ∧
    (∃ t, exec (.pWrite 0x5A#8) (busyAt (.pWrite 0x5A#8) 1#4) = .next t) ∧
    (∃ t, (busyAt (.cRead true) 3#4).busy = true ∧ exec (.cRead true) (busyAt (.cRead true) 3#4) = .next t) ∧
    (∃ t, exec .pRead (busyAt .pRead 3#4) = .next t) ∧
    (∃ t, (busyAt .cStop 4#4).busy = true ∧ exec .cStop { busyAt .cStop 4#4 with startDet := true } = .next t) ∧
    (∃ t, (busyAt (.pStart 0x28#7) 9#4).busy = true ∧ exec (.pStart 0x28#7) (busyAt (.pStart 0x28#7) 9#4) = .next t) :=
  ⟨⟨_, rfl, rfl⟩, ⟨_, rfl⟩, ⟨_, rfl, rfl⟩, ⟨_, rfl⟩, ⟨_, rfl, rfl⟩, ⟨_, rfl⟩, ⟨_, rfl, rfl⟩, ⟨_, rfl, rfl⟩⟩

theorem witness_ConfigurationNeverChanges : ∃ s t : State, step s = .next t ∧ s.cfg = followCfg :=
  ⟨idleAt followCfg [.host 0x9000#16], _, rfl, rfl⟩

/-- An out-of-order command, an illegal word, and a reset. -/
theorem witness_StickyFaultBits :
    (∃ t, step (idleAt (docCfg .controller) [.host 0x3012#16]) = .next t ∧ t.fOrder = true) ∧
    (∃ t, step (idleAt (docCfg .controller) [.host 0x6000#16]) = .next t ∧ t.fIllegal = true) ∧
    (∃ t, step { idleAt (docCfg .controller) [.reset] with fOrder := true } = .next t) :=
  ⟨⟨_, rfl, rfl⟩, ⟨_, rfl, rfl⟩, ⟨_, rfl⟩⟩

/-- A reset and each of the three writers, P_START's with a frame that matches and one that does not. -/
theorem witness_RdataWriters :
    (∃ t, step { idleAt (docCfg .controller) [.reset] with rdata := 0xC3#8 } = .next t ∧ t.rdata ≠ 0xC3#8) ∧
    (∃ t, step { busyAt (.cRead true) 2#4 with tmp := 0xC3#8 } = .next t ∧ t.rdata ≠ 0x00#8) ∧
    (∃ t, step { busyAt .pRead 2#4 with tmp := 0x7E#8 } = .next t ∧ t.rdata ≠ 0x00#8) ∧
    (∃ t, step { busyAt (.pStart 0x28#7) 5#4 with tmp := 0x28#8 } = .next t ∧ t.rdata ≠ 0x00#8) ∧
    (∃ s : State, s.engineActs ∧ s.runs (.pStart 0x28#7) ∧ s.cstep = 5#4 ∧
      addressMatch s.cfg.matchMode s.tmp 0x28#7 = false) :=
  ⟨⟨_, rfl, by decide⟩, ⟨_, rfl, by decide⟩, ⟨_, rfl, by decide⟩, ⟨_, rfl, by decide⟩,
   ⟨{ busyAt (.pStart 0x28#7) 5#4 with tmp := 0x50#8 }, .inl rfl, ⟨rfl, rfl⟩, rfl, rfl⟩⟩

/-- A step that changes CMDR, and a peer step on an idle block. -/
theorem witness_CommandAndResponseHeld :
    (∃ t, step (idleAt (docCfg .controller) [.host 0x5000#16]) = .next t ∧ t.cmdr ≠ 0x0000#16) ∧
    (∃ t, step (idleAt (docCfg .controller) [.peer false false]) = .next t ∧
      (idleAt (docCfg .controller) [.peer false false]).busy = false ∧
      (idleAt (docCfg .controller) [.peer false false]).sched.head? ≠ some .reset) :=
  ⟨⟨_, rfl, by decide⟩, ⟨_, rfl, rfl, by decide⟩⟩

/-- R42, R40: bit by bit, the FSM of a peripheral in DATA_EXCHANGE that waits in P_READ, and the ends of the number range. -/
theorem witness_ObservationPort :
    ({ busyAt .pRead 0#4 with pstate := .dataExchange } : State).observe 3 = 0b00010011#8 ∧
    (idleAt (docCfg .controller) []).cfg.role = .controller ∧
    (idleAt (docCfg .controller) []).observe 2 = 0b01111111#8 ∧
    ({ idleAt (docCfg .controller) [] with result := .illegalCmd } : State).observe 4 = 7#8 ∧
    ({ idleAt (docCfg .controller) [] with cstate := .waitStop } : State).observe 3 = 5#8 ∧
    ({ idleAt (docCfg .controller) [] with result := .nack, rdata := 0xC3#8, rspValid := true } : State).response =
      { result := 2#3, rdata := 0xC3#8, valid := true } ∧
    (idleAt (docCfg .controller) []).observe 12 = 0#8 ∧ (idleAt (docCfg .controller) []).observe 255 = 0#8 := by
  decide

/-- The invariant holds in states of every kind: idle in and out of a transaction, holding, in a transfer, in FOLLOW. -/
theorem witness_EveryStepKeepsInvariant :
    Inv State.reset ∧ Inv (inTransaction .peripheral true []) ∧ Inv heldStop ∧ Inv heldFollow ∧ Inv heldTransfer ∧ Inv deadlocked ∧
    Inv (writeAt 5#4 14#5 false) ∧ Inv { busyAt (.pWrite 0x5A#8) 0#4 with cfg := followCfg } :=
  ⟨inv_of_check (by decide), inv_of_check (by decide), heldStop_inv, heldFollow_inv, heldTransfer_inv,
    inv_of_check (by decide),
    inv_of_check (by decide), inv_of_check (by decide)⟩

end Sys2Proof.Tests
end

section
namespace Sys2Proof

/-! ### The decoder: R84's checks field by field, and R85's six cases -/

/-- A word is determined by its four fields (R81). -/
theorem word_eq_iff_fields {u v : Word} :
    u = v ↔ opField u = opField v ∧ zeroField u = zeroField v ∧ flagField u = flagField v ∧ immField u = immField v := by
  refine ⟨by rintro rfl; exact ⟨rfl, rfl, rfl, rfl⟩, fun ⟨hop, hzero, hflag, himm⟩ => ?_⟩
  refine BitVec.eq_of_getLsbD_eq fun i hi => ?_
  obtain h | h | rfl | h : i < 8 ∨ (8 ≤ i ∧ i - 8 < 3) ∨ i = 11 ∨ (12 ≤ i ∧ i - 12 < 4) := by omega
  · simpa [immField, BitVec.getLsbD_extractLsb', h] using congrArg (BitVec.getLsbD · i) himm
  · simpa [zeroField, BitVec.getLsbD_extractLsb', h] using congrArg (BitVec.getLsbD · (i - 8)) hzero
  · exact hflag
  · simpa [opField, BitVec.getLsbD_extractLsb', h] using congrArg (BitVec.getLsbD · (i - 12)) hop

theorem fields_and (u v : Word) :
    opField (u &&& v) = opField u &&& opField v ∧ zeroField (u &&& v) = zeroField u &&& zeroField v ∧
      flagField (u &&& v) = (flagField u && flagField v) ∧ immField (u &&& v) = immField u &&& immField v :=
  ⟨BitVec.extractLsb'_and, BitVec.extractLsb'_and, BitVec.getLsbD_and, BitVec.extractLsb'_and⟩

/-- The must-be-zero bits of a row (R81, R82): `Z`, and, of `F` and `IMM8`, what the row has no operand in. -/
def Row.MustBeZero (row : Row) (w : Word) : Prop :=
  match row with
  | .cStart | .cRstart => zeroField w = 0#3 ∧ (immField w).getLsbD 7 = false
  | .cWrite | .pWrite => zeroField w = 0#3 ∧ flagField w = false
  | .cRead => zeroField w = 0#3 ∧ immField w = 0#8
  | .cStop | .pRead => zeroField w = 0#3 ∧ flagField w = false ∧ immField w = 0#8
  | .pStart => zeroField w = 0#3 ∧ flagField w = false ∧ (immField w).getLsbD 7 = false

theorem opField_of_rowOf {op : BitVec 4} {row : Row} (h : rowOf op = some row) : op = opField row.pattern := by
  revert op
  cases row <;> decide

/-- The mask test of R82, for a word with the row's opcode: exactly the must-be-zero bits are tested. -/
theorem and_mask_eq_pattern_iff {row : Row} {w : Word} (h : rowOf (opField w) = some row) :
    w &&& row.mask = row.pattern ↔ row.MustBeZero w := by
  obtain ⟨hop, hzero, hflag, himm⟩ := fields_and w row.mask
  have hz (z : BitVec 3) : z &&& 0b111#3 = z := BitVec.and_allOnes
  have hb (b : Byte) : b &&& 0xFF#8 = b := BitVec.and_allOnes
  have hb7 : ∀ b : Byte, b &&& 0x80#8 = 0x00#8 ↔ b.getLsbD 7 = false := by decide
  rw [word_eq_iff_fields, hop, hflag, hzero, himm, opField_of_rowOf h]
  cases row <;>
    simp [Row.MustBeZero, Row.mask, Row.pattern, opField, flagField, zeroField, immField, hz, hb, hb7]

theorem decodeWord_of_row {row : Row} {w : Word} (h : rowOf (opField w) = some row) :
    (row.MustBeZero w → decodeWord w = .ok (row.instr w)) ∧
      (¬ row.MustBeZero w → decodeWord w = .error .mustBeZero) := by
  simp only [decodeWord, h, ← and_mask_eq_pattern_iff h]
  exact ⟨fun k => if_pos k, fun k => if_neg k⟩

theorem decode_error_iff_of_row {row : Row} {r : Role} {w : Word} (h : rowOf (opField w) = some row) :
    (∃ e, decode r w = .error e) ↔ ¬ row.MustBeZero w ∨ (row.instr w).role ≠ r := by
  obtain ⟨hok, herr⟩ := decodeWord_of_row h
  by_cases hz : row.MustBeZero w
  · by_cases hr : (row.instr w).role = r <;> simp [decode, hok hz, hz, hr]
  · simp [decode, herr hz, hz]

end Sys2Proof

namespace Sys2Proof.Machine

theorem illegalWord_iff_of_row {row : Row} {r : Role} {w : Word} (h : rowOf (opField w) = some row) :
    illegalWord r w ↔ ¬ row.MustBeZero w ∨ (row.instr w).role ≠ r := by
  have hop : (w.extractLsb' 12 4).toNat = (opField row.pattern).toNat := congrArg BitVec.toNat (opField_of_rowOf h)
  simp only [illegalWord, hop]
  cases row <;> cases r <;>
    simp [Row.MustBeZero, Row.pattern, opField, flagField, zeroField, immField, Row.instr, Instr.role,
      not_and_or, -not_and]

theorem illegalWord_of_reserved {r : Role} {w : Word} (h : rowOf (opField w) = none) : illegalWord r w := by
  have hreserved : ∀ op : BitVec 4, rowOf op = none → op.toNat ∈ [0x0, 0x6, 0x7, 0xB, 0xC, 0xD, 0xE, 0xF] := by decide
  exact .inl (hreserved _ h)

/-- R84 refuses exactly the words R85 lists. -/
theorem decode_error_iff_illegalWord (r : Role) (w : Word) : (∃ e, decode r w = .error e) ↔ illegalWord r w := by
  cases hrow : rowOf (opField w) with
  | none => simp [decode, decodeWord, hrow, illegalWord_of_reserved]
  | some row => rw [decode_error_iff_of_row hrow, illegalWord_iff_of_row hrow]

/-! ### The turns of ENGINE and HOST -/

/-- ENGINE's turn, if it answers a next state: nothing happens, or the command in CMDR takes the micro-operation CSTEP
names (R105). -/
theorem engineTurn_micro {s t : State} (h : engineTurn s = .next t) :
    t = s ∨ ∃ i op u, s.runs i ∧ (programOf i)[s.cstep.toNat]? = some op ∧ op.run s = .moved u ∧ t = lineUpdate u := by
  obtain ⟨-, rfl⟩ | ⟨i, hruns, hexec⟩ := engineTurn_next h
  · exact .inl rfl
  · rw [exec_busy hruns.1] at hexec
    obtain ⟨op, hop, ⟨-, rfl⟩ | ⟨u, hu, rfl⟩⟩ := engineStep_next hexec
    · exact .inl rfl
    · exact .inr ⟨i, op, u, hruns, hop, hu, rfl⟩

/-- HOST's turn, if it answers a next state (R104): a busy block takes no word; an idle one accepts a word its role decodes
and refuses any other. -/
theorem hostTurn_next {w : Word} {s t : State} (h : hostTurn w s = .next t) :
    (s.busy = true ∧ t = s) ∨
    (s.busy = false ∧ ∃ i, decode s.cfg.role w = .ok i ∧
      t = lineUpdate (acceptCommand (encode i) (orderPermits i s) s)) ∨
    (s.busy = false ∧ (∃ e, decode s.cfg.role w = .error e) ∧ ∃ v, t = lineUpdate (refuseCommand v s)) := by
  unfold hostTurn at h
  split at h
  · next hb => cases h; exact .inl ⟨hb, rfl⟩
  · next hb =>
    have hidle : s.busy = false := by simpa using hb
    split at h
    · next i hi =>
      rw [exec_idle hidle] at h
      split at h
      · next hr => cases h; exact .inr (.inl ⟨hidle, i, by simp [decode, hi, hr], rfl⟩)
      · next hr => cases h; exact .inr (.inr ⟨hidle, ⟨.wrongRole, by simp [decode, hi, Ne.symm hr]⟩, _, rfl⟩)
    · next e he => cases h; exact .inr (.inr ⟨hidle, ⟨e, by simp [decode, he]⟩, _, rfl⟩)

/-- A step of ENGINE (R100, log entry 1): its event, if one is left, leaves the schedule. -/
theorem step_engineActs {s : State} (h : s.engineActs) : step s = engineTurn { s with sched := s.sched.tail } := by
  cases hs : s.sched with
  | nil => rw [step_nil hs, List.tail_nil, ← hs]
  | cons e rest =>
    obtain rfl : e = .engine := by simpa [State.engineActs, hs] using h
    exact step_cons hs

/-! ### The sticky fault bits -/

theorem engineTurn_faultBits {s t : State} (h : engineTurn s = .next t) :
    t.fOrder = s.fOrder ∧ t.fIllegal = s.fIllegal := by
  obtain rfl | ⟨i, op, u, -, -, hu, rfl⟩ := engineTurn_micro h
  · exact ⟨rfl, rfl⟩
  · have k := MicroOp.run_untouched hu
    exact ⟨k.fOrder, k.fIllegal⟩

theorem hostTurn_fOrder {w : Word} {s t : State} (h : hostTurn w s = .next t) :
    t.fOrder = true ↔ s.fOrder = true ∨
      (s.busy = false ∧ ∃ i, decode s.cfg.role w = .ok i ∧ orderPermits i s = false) := by
  obtain ⟨hb, rfl⟩ | ⟨hb, i, hi, rfl⟩ | ⟨hb, ⟨e, he⟩, v, rfl⟩ := hostTurn_next h
  · simp [hb]
  · simp [hb, hi, acceptCommand]
  · simp [he, refuseCommand]

theorem hostTurn_fIllegal {w : Word} {s t : State} (h : hostTurn w s = .next t) :
    t.fIllegal = true ↔ s.fIllegal = true ∨ (s.busy = false ∧ illegalWord s.cfg.role w) := by
  rw [← decode_error_iff_illegalWord]
  obtain ⟨hb, rfl⟩ | ⟨hb, i, hi, rfl⟩ | ⟨hb, he, v, rfl⟩ := hostTurn_next h
  · simp [hb]
  · simp [hi, acceptCommand]
  · simp [hb, he, refuseCommand]

theorem orderPermits_sched (i : Instr) (s : State) (l : List Event) :
    orderPermits i { s with sched := l } = orderPermits i s := by
  cases i <;> rfl

/-- Settles O54: by the agent of the step; only HOST's turn can set a fault bit, and only RESET clears one. -/
theorem stickyFaultBits : Obligations.StickyFaultBits := by
  unfold Obligations.StickyFaultBits
  intro s t h
  obtain ⟨hs, ht⟩ | ⟨rest, hs, ht⟩ | ⟨w, rest, hs, ht⟩ | ⟨c, d, rest, hs, rfl⟩ | ⟨rest, hs, rfl⟩ := step_next h
  · obtain ⟨hOrder, hIllegal⟩ := engineTurn_faultBits ht
    simp [hs, hOrder, hIllegal]
  · obtain ⟨hOrder, hIllegal⟩ := engineTurn_faultBits ht
    simp [hs, hOrder, hIllegal]
  · simp [hs, hostTurn_fOrder ht, hostTurn_fIllegal ht, orderPermits_sched]
  · simp [hs, setPeer]
  · simp [hs, State.reset]

/-! ### RDATA -/

theorem Setting.apply_rdata (x : Setting) (s : State) : (x.apply s).rdata = s.rdata := by
  cases x <;> rfl

theorem GuardedSetting.apply_rdata (g : GuardedSetting) (s : State) : (g.apply s).rdata = s.rdata := by
  unfold GuardedSetting.apply
  split
  · exact g.setting.apply_rdata s
  · split
    · exact g.setting.apply_rdata s
    · rfl

theorem settings_rdata (l : List GuardedSetting) (s : State) : (l.foldl GuardedSetting.apply s).rdata = s.rdata := by
  induction l generalizing s with
  | nil => rfl
  | cons g l ih => exact (ih _).trans (g.apply_rdata s)

theorem ActionList.run_rdata (l : ActionList) (s : State) : (l.run s).rdata = s.rdata := by
  unfold ActionList.run
  split <;> exact settings_rdata l.settings s

theorem transferStep_rdata {n : XferCount} {s t : State} (h : transferStep n s = .moved t) : t.rdata = s.rdata := by
  rcases transferStep_moved h with
    ⟨-, rfl⟩ | ⟨-, rfl⟩ | ⟨-, -, rfl⟩ | ⟨-, -, -, rfl⟩ | ⟨-, -, rfl⟩ | ⟨-, rfl⟩ | ⟨-, rfl⟩ | ⟨-, rfl⟩ | ⟨-, rfl⟩ | ⟨-, rfl⟩
  all_goals rfl

/-- SAVE_RDATA (R125) is the one micro-operation that writes RDATA. -/
theorem MicroOp.run_rdata {op : MicroOp} {s t : State} (h : op.run s = .moved t) :
    t.rdata = s.rdata ∨ (op = .saveRdata ∧ t.rdata = s.tmp) := by
  cases op with
  | saveRdata => cases h; exact .inr ⟨rfl, rfl⟩
  | xfer n => exact .inl (transferStep_rdata h)
  | set x => cases h; exact .inl (x.apply_rdata s)
  | checkStart fail =>
    cases h
    split
    · exact .inl rfl
    · exact .inl (fail.run_rdata s)
  | ifThenElse c a b =>
    cases h
    split
    · exact .inl (a.run_rdata s)
    · exact .inl (b.run_rdata s)
  | waitSclHigh | waitStartDet =>
    simp only [MicroOp.run] at h
    split at h <;> cases h
    exact .inl rfl
  | _ => cases h; exact .inl rfl

/-- The SAVE_RDATA steps of the micro-programs (R155, R183, R184). -/
theorem program_saveRdata_iff {i : Instr} {c : BitVec 4} :
    (programOf i)[c.toNat]? = some .saveRdata ↔
      (∃ more, i = .cRead more ∧ c = 2#4) ∨ (i = .pRead ∧ c = 2#4) ∨ (∃ own, i = .pStart own ∧ c = 5#4) := by
  rw [← BitVec.toNat_inj, ← BitVec.toNat_inj]
  cases i
  case cRead | pRead | pStart =>
    simp [programOf, cReadProgram, pReadProgram, pStartProgram, List.getElem?_cons, ite_eq_iff]
    omega
  all_goals
    refine iff_of_false (fun h => absurd (List.mem_of_getElem? h) ?_) (by simp)
    simp [programOf, cStartProgram, cRstartProgram, cWriteProgram, cStopProgram, pWriteProgram, frameAcked]

/-- The block is at a SAVE_RDATA step of the command it executes. -/
def State.saves (s : State) : Prop :=
  ∃ i, s.runs i ∧ (programOf i)[s.cstep.toNat]? = some .saveRdata

theorem State.saves_iff {s : State} :
    s.saves ↔ (∃ more, s.runs (.cRead more) ∧ s.cstep = 2#4) ∨ (s.runs .pRead ∧ s.cstep = 2#4) ∨
      (∃ own, s.runs (.pStart own) ∧ s.cstep = 5#4) := by
  simp only [State.saves, program_saveRdata_iff]
  constructor
  · rintro ⟨i, hruns, ⟨more, rfl, hc⟩ | ⟨rfl, hc⟩ | ⟨own, rfl, hc⟩⟩
    · exact .inl ⟨more, hruns, hc⟩
    · exact .inr (.inl ⟨hruns, hc⟩)
    · exact .inr (.inr ⟨own, hruns, hc⟩)
  · rintro (⟨more, hruns, hc⟩ | ⟨hruns, hc⟩ | ⟨own, hruns, hc⟩)
    · exact ⟨_, hruns, .inl ⟨more, rfl, hc⟩⟩
    · exact ⟨_, hruns, .inr (.inl ⟨rfl, hc⟩)⟩
    · exact ⟨_, hruns, .inr (.inr ⟨own, rfl, hc⟩)⟩

theorem engineTurn_saves {s : State} (h : s.saves) : ∃ t, engineTurn s = .next t ∧ t.rdata = s.tmp := by
  obtain ⟨i, hruns, hop⟩ := h
  rw [engineTurn_runs hruns, exec_busy hruns.1, engineStep_moved hop rfl]
  exact ⟨_, rfl, rfl⟩

theorem engineTurn_rdata {s t : State} (h : engineTurn s = .next t) :
    t.rdata = s.rdata ∨ (s.saves ∧ t.rdata = s.tmp) := by
  obtain rfl | ⟨i, op, u, hruns, hop, hu, rfl⟩ := engineTurn_micro h
  · exact .inl rfl
  · obtain hkept | ⟨rfl, hsaved⟩ := MicroOp.run_rdata hu
    · exact .inl hkept
    · exact .inr ⟨⟨i, hruns, hop⟩, hsaved⟩

theorem hostTurn_rdata {w : Word} {s t : State} (h : hostTurn w s = .next t) : t.rdata = s.rdata := by
  obtain ⟨-, rfl⟩ | ⟨-, i, -, rfl⟩ | ⟨-, -, v, rfl⟩ := hostTurn_next h <;> rfl

/-- Settles O55: the three writers are the SAVE_RDATA steps, and of the agents only ENGINE, at such a step, and RESET write
RDATA. -/
theorem rdataWriters : Obligations.RdataWriters := by
  unfold Obligations.RdataWriters
  simp only [← State.saves_iff]
  constructor
  · intro s hengine hsaves
    rw [step_engineActs hengine]
    exact engineTurn_saves hsaves
  · intro s t h hne
    obtain ⟨hs, ht⟩ | ⟨rest, hs, ht⟩ | ⟨w, rest, hs, ht⟩ | ⟨c, d, rest, hs, rfl⟩ | ⟨rest, hs, rfl⟩ := step_next h
    · obtain ⟨hsaves, hsaved⟩ := (engineTurn_rdata ht).resolve_left hne
      exact .inr ⟨.inl (by simp [hs]), hsaved, hsaves⟩
    · obtain ⟨hsaves, hsaved⟩ := (engineTurn_rdata ht).resolve_left hne
      exact .inr ⟨.inr (by simp [hs]), hsaved, hsaves⟩
    · exact absurd (hostTurn_rdata ht) hne
    · exact absurd rfl hne
    · exact .inl ⟨rest, hs⟩

/-! ### The observation port, register by register -/

/-- STATUS (R29). -/
theorem State.status_bits (s : State) :
    s.status.getLsbD 7 = s.startDet ∧ s.status.getLsbD 6 = s.ovf ∧ s.status.getLsbD 5 = false ∧
      s.status.extractLsb' 0 5 = s.cnt := by
  simp only [State.status, BitVec.getLsbD_append, BitVec.extractLsb'_append_eq_right]
  simp

/-- CTRL (R30). -/
theorem State.ctrl_bits (s : State) :
    s.ctrl.getLsbD 7 = false ∧ s.ctrl.getLsbD 6 = false ∧ (s.ctrl.getLsbD 5 = true ↔ s.cfg.role = .peripheral) ∧
      (s.ctrl.getLsbD 4 = true ↔ s.cfg.matchMode = .addrBits) ∧
      (s.ctrl.getLsbD 3 = true ↔ s.cfg.clockMode = .follow) ∧ s.ctrl.extractLsb' 0 3 = 0#3 := by
  simp only [State.ctrl, BitVec.getLsbD_append, BitVec.extractLsb'_append_eq_right]
  simp

/-- LINES (R31). -/
theorem State.lines_bits (s : State) :
    s.lines.getLsbD 0 = s.clkPort ∧ s.lines.getLsbD 1 = s.clkDir ∧ s.lines.getLsbD 2 = s.datPort ∧
      s.lines.getLsbD 3 = s.datDir ∧ s.lines.getLsbD 4 = s.dol ∧ s.lines.getLsbD 5 = s.sclObs ∧
      s.lines.getLsbD 6 = s.sdaObs ∧ s.lines.getLsbD 7 = false := by
  simp only [State.lines, BitVec.getLsbD_append]
  simp

/-- FSM (R40). -/
theorem State.fsm_bits (s : State) :
    s.fsm.extractLsb' 0 3 = s.fsmState ∧ s.fsm.getLsbD 3 = s.xdir ∧ s.fsm.getLsbD 4 = s.busy ∧
      s.fsm.getLsbD 5 = s.rspValid ∧ s.fsm.getLsbD 6 = s.fOrder ∧ s.fsm.getLsbD 7 = s.fIllegal := by
  simp only [State.fsm, BitVec.getLsbD_append, BitVec.extractLsb'_append_eq_right]
  simp

theorem State.fsm_controller {s : State} (h : s.cfg.role = .controller) : s.fsm.extractLsb' 0 3 = s.cstate.code := by
  obtain ⟨hstate, -⟩ := s.fsm_bits
  rw [hstate, State.fsmState, h]

theorem State.fsm_peripheral {s : State} (h : s.cfg.role = .peripheral) :
    s.fsm.extractLsb' 0 2 = s.pstate.code ∧ s.fsm.getLsbD 2 = false := by
  have hstate : s.fsmState = 0#1 ++ s.pstate.code := by rw [State.fsmState, h]
  constructor
  · rw [State.fsm, BitVec.extractLsb'_append_eq_of_add_le (by decide), hstate, BitVec.extractLsb'_append_eq_right]
  · simp only [State.fsm, hstate, BitVec.getLsbD_append]
    simp

theorem State.observe_result (s : State) : (s.observe 4).toNat = s.result.code.toNat := by
  have h : s.observe 4 = s.result.code.setWidth 8 := rfl
  rw [h, BitVec.toNat_setWidth_of_le (by decide)]

theorem State.observe_cmdr (s : State) : s.observe 9 ++ s.observe 8 = s.cmdr :=
  (BitVec.extractLsb'_append_extractLsb'_eq_extractLsb' rfl).trans BitVec.extractLsb'_eq_self

theorem State.observe_steps (s : State) :
    (s.observe 10).extractLsb' 4 4 = s.cstep ∧ (s.observe 10).extractLsb' 0 4 = s.xstep :=
  ⟨BitVec.extractLsb'_append_eq_left, BitVec.extractLsb'_append_eq_right⟩

theorem State.observe_xn (s : State) : (s.observe 11).toNat = s.xn.toNat := by
  have h : s.observe 11 = (BitVec.ofBool s.xn).setWidth 8 := rfl
  rw [h, BitVec.toNat_setWidth_of_le (by decide), BitVec.toNat_ofBool]

theorem State.observe_unused (s : State) (n : Byte) (h : 12 ≤ n.toNat) : s.observe n = 0#8 := by
  unfold State.observe
  split
  case h_13 => rfl
  all_goals omega

/-- Settles O57, number by number: 0 to 3 by the layouts of STATUS, CTRL, LINES and FSM. -/
theorem observationPort : Obligations.ObservationPort := by
  unfold Obligations.ObservationPort
  refine ⟨by decide, by decide, by decide, fun s => ?_⟩
  obtain ⟨-, hfsm⟩ := s.fsm_bits
  exact ⟨rfl, s.status_bits, s.ctrl_bits, s.lines_bits, ⟨State.fsm_controller, State.fsm_peripheral, hfsm⟩,
    s.observe_result, rfl, rfl, rfl, s.observe_cmdr, s.observe_steps, s.observe_xn, s.observe_unused⟩

/-- Settles O13: the table's entries are the fields of `State.reset`; CTRL by its layout. -/
theorem resetValues : Obligations.ResetValues := by
  unfold Obligations.ResetValues
  obtain ⟨hStartIE, hOvfIE, hRole, hMatch, hClock, -⟩ := State.reset.ctrl_bits
  refine ⟨?_, ?_, ?_, ?_, ?_, ?_, ?_, ?_, ?_, ?_, ?_, ?_, ?_, ?_, ?_, ?_, ?_, ?_, ?_, ?_, ?_, ?_, ?_, ?_, ?_,
    hStartIE, hOvfIE, hRole, hMatch, hClock⟩
  all_goals rfl

end Sys2Proof.Machine
end

section
namespace Sys2Proof.Machine

/-! ### Settled lines -/

/-- Reset leaves the lines settled (R46, R230): the block releases both lines, and the latch shows the top bit of 0xFF. -/
theorem resetBlock_settled (s : State) : (resetBlock s).linesSettled := by
  have hlatch : State.reset.dol = State.reset.sr.getLsbD 7 := by decide
  exact ⟨rfl, fun _ => hlatch, rfl⟩

theorem engineTurn_settled {s t : State} (hs : s.linesSettled) (h : engineTurn s = .next t) : t.linesSettled := by
  obtain rfl | ⟨-, -, u, -, -, -, rfl⟩ := engineTurn_micro h
  · exact hs
  · exact lineUpdate_settled u

theorem hostTurn_settled {w : Word} {s t : State} (hs : s.linesSettled) (h : hostTurn w s = .next t) :
    t.linesSettled := by
  obtain ⟨-, rfl⟩ | ⟨-, i, -, rfl⟩ | ⟨-, -, v, rfl⟩ := hostTurn_next h
  · exact hs
  · exact lineUpdate_settled _
  · exact lineUpdate_settled _

/-- Every step keeps the lines settled: one without effect leaves them as they were, reset releases them, and every other
step ends with the line update (R60, R101). -/
theorem step_settled {s t : State} (hs : s.linesSettled) (h : step s = .next t) : t.linesSettled := by
  obtain ⟨-, ht⟩ | ⟨rest, -, ht⟩ | ⟨w, rest, -, ht⟩ | ⟨c, d, rest, -, rfl⟩ | ⟨rest, -, rfl⟩ := step_next h
  · exact engineTurn_settled hs ht
  · exact engineTurn_settled (s := { s with sched := rest }) hs ht
  · exact hostTurn_settled (s := { s with sched := rest }) hs ht
  · exact lineUpdate_settled _
  · exact resetBlock_settled _

/-- Settles O14: settled lines are kept by every step, and they are the two wired ANDs. -/
theorem linesAreWiredAnd : Obligations.LinesAreWiredAnd := by
  unfold Obligations.LinesAreWiredAnd
  intro s t hs h
  obtain ⟨hscl, -, hsda⟩ := step_settled hs h
  exact ⟨hscl, hsda⟩

/-! ### The frame -/

/-- The frame puts the direction below the address (R66). -/
theorem frame_eq_concat (a : Addr) (f : Bool) : frame a f = a.concat f := rfl

theorem frame_getLsbD_zero (a : Addr) (f : Bool) : (frame a f).getLsbD 0 = f := by
  rw [frame_eq_concat, BitVec.getLsbD_concat_zero]

theorem frame_getLsbD_succ (a : Addr) (f : Bool) (k : Nat) : (frame a f).getLsbD (k + 1) = a.getLsbD k := by
  rw [frame_eq_concat, BitVec.getLsbD_concat_succ]

/-- R66's `(A << 1) | D` as a number. -/
theorem frame_toNat (a : Addr) (f : Bool) : (frame a f).toNat = 2 * a.toNat + f.toNat := by
  rw [frame_eq_concat, BitVec.toNat_concat, Nat.mul_comm]

theorem wireBits_frame (a : Addr) (f : Bool) :
    wireBits (frame a f) =
      [a.getLsbD 6, a.getLsbD 5, a.getLsbD 4, a.getLsbD 3, a.getLsbD 2, a.getLsbD 1, a.getLsbD 0, f] := by
  simp only [wireBits, frame_getLsbD_succ, frame_getLsbD_zero]

/-- Settles O5, bit by bit; R157's two examples are evaluated. -/
theorem framePacking : Obligations.FramePacking := by
  unfold Obligations.FramePacking
  refine ⟨fun a f => ⟨frame_getLsbD_zero a f, fun k _ => frame_getLsbD_succ a f k⟩, frame_toNat, wireBits_frame, ?_, ?_⟩
  · decide
  · decide

end Sys2Proof.Machine
end

section
namespace Sys2Proof

/-! ### The word of a decoded command -/

/-- The low `n` bits of a word, at their place in it. -/
theorem lowBits_setWidth (n : Nat) (w : Word) :
    (w.extractLsb' 0 n).setWidth 16 = w &&& BitVec.ofNat 16 (2 ^ n - 1) := by
  refine BitVec.eq_of_getLsbD_eq fun i hi => ?_
  rw [BitVec.getLsbD_and, BitVec.getLsbD_ofNat, Nat.testBit_two_pow_sub_one]
  simp [hi, Bool.and_comm]

theorem flagField_word (w : Word) : (if flagField w then 0x0800#16 else 0x0000#16) = w &&& 0x0800#16 :=
  (BitVec.and_twoPow w 11).symm

theorem addrField_word (w : Word) : (addrField w).setWidth 16 = w &&& 0x007F#16 :=
  lowBits_setWidth 7 w

theorem immField_word (w : Word) : (immField w).setWidth 16 = w &&& 0x00FF#16 :=
  lowBits_setWidth 8 w

/-- The operands R81 extracts are the bits outside the row's mask (R82), so the table of R88 puts them back in place. -/
theorem encode_instr (row : Row) (w : Word) : encode (row.instr w) = row.pattern ||| (w &&& ~~~row.mask) := by
  have hflagAddr : w &&& 0x087F#16 = (w &&& 0x0800#16) ||| (w &&& 0x007F#16) := by
    rw [← BitVec.and_or_distrib_left]; rfl
  cases row with
  | cStart | cRstart =>
    simp [encode, Row.instr, Row.pattern, Row.mask, flagField_word, addrField_word, hflagAddr, BitVec.or_assoc]
  | cRead =>
    have hflag : encode (.cRead (flagField w)) = 0x4000#16 ||| (if flagField w then 0x0800#16 else 0x0000#16) := by
      cases flagField w <;> rfl
    simp [Row.instr, Row.pattern, Row.mask, hflag, flagField_word]
  | _ => simp [encode, Row.instr, Row.pattern, Row.mask, addrField_word, immField_word]

theorem encode_of_decodeWord {w : Word} {i : Instr} (h : decodeWord w = .ok i) : encode i = w := by
  unfold decodeWord at h
  split at h
  · cases h
  · next row _ =>
    split at h
    · next hmask =>
      cases h
      calc encode (row.instr w)
          = (w &&& row.mask) ||| (w &&& ~~~row.mask) := by rw [encode_instr, hmask]
        _ = w := by rw [← BitVec.and_or_distrib_left, BitVec.or_not_self, BitVec.and_allOnes]
    · cases h

end Sys2Proof

namespace Sys2Proof.Machine

/-! ### The refusal of an illegal word -/

/-- A word the block's role does not decode, offered to an idle block, takes the refusal path (R104, R205), whether no role
decodes it or only the other one does. -/
theorem hostTurn_refuses {w : Word} {s : State} {e : IllegalReason} (hidle : s.busy = false)
    (h : decode s.cfg.role w = .error e) : hostTurn w s = .next (lineUpdate (refuseCommand w s)) := by
  rw [hostTurn, if_neg (by simp [hidle])]
  split
  · next i hi =>
    have hrole : s.cfg.role ≠ i.role := by
      intro hr
      simp [decode, hi, hr] at h
    rw [exec_idle hidle, if_neg hrole, encode_of_decodeWord hi]
  · rfl

/-- The refusal path writes nothing the line model reads (R85). -/
theorem refuseCommand_settled {w : Word} {s : State} (h : s.linesSettled) : (refuseCommand w s).linesSettled :=
  h

/-- Settles O9: R85's words are those decode refuses, so the offer takes the refusal path, and the line update after it
changes nothing on settled lines. -/
theorem illegalWordRefused : Obligations.IllegalWordRefused := by
  unfold Obligations.IllegalWordRefused
  intro s w rest hsched hidle hsettled hillegal
  obtain ⟨e, he⟩ := (decode_error_iff_illegalWord s.cfg.role w).mpr hillegal
  have hrest : State.linesSettled { s with sched := rest } := hsettled
  calc step s
      = hostTurn w { s with sched := rest } := step_cons hsched
    _ = .next (lineUpdate (refuseCommand w { s with sched := rest })) := hostTurn_refuses hidle he
    _ = .next (refuseCommand w { s with sched := rest }) := by
        rw [lineUpdate_of_settled (refuseCommand_settled hrest)]

end Sys2Proof.Machine
end

section
namespace Sys2Proof.Machine

/-! ### The peer's step -/

/-- Settles O11: a peer step writes the drives and takes the line update, whatever the state. -/
theorem peerStep : Obligations.PeerStep := by
  unfold Obligations.PeerStep
  intro s c d rest hsched
  exact ⟨lineUpdate (setPeer c d { s with sched := rest }), step_cons hsched, lineUpdate_sclObs _, lineUpdate_dol _,
    lineUpdate_sdaObs _, lineUpdate_startDet _, rfl⟩

/-! ### Where the micro-programs transfer and wait -/

/-- The length of the transfer an XFER step runs (R118). -/
def MicroOp.xferCount : MicroOp → Option XferCount
  | .xfer n => some n
  | _ => none

theorem MicroOp.xferCount_eq_some {op : MicroOp} {n : XferCount} : op.xferCount = some n ↔ op = .xfer n := by
  cases op <;> simp [MicroOp.xferCount]

/-- `xferAt` reads the micro-program: it names exactly its XFER steps. -/
theorem xferAt_eq_program (i : Instr) (c : Nat) : xferAt i c = (programOf i)[c]?.bind MicroOp.xferCount := by
  match c with
  | 0 | 1 | 2 | 3 | 4 | 5 | 6 | 7 | 8 | 9 | 10 | 11 | 12 | 13 | 14 => cases i <;> rfl
  | c + 15 => cases i <;> rfl

theorem xferAt_eq_some_iff {i : Instr} {c : Nat} {n : XferCount} :
    xferAt i c = some n ↔ (programOf i)[c]? = some (.xfer n) := by
  simp [xferAt_eq_program, Option.bind_eq_some_iff, MicroOp.xferCount_eq_some]

/-- The WAIT_SCL_HIGH steps of the micro-programs (R152, R153, R156). -/
theorem program_waitSclHigh_iff {i : Instr} {c : Nat} :
    (programOf i)[c]? = some .waitSclHigh ↔
      (∃ f a, i = .cStart f a ∧ c = 2) ∨ (∃ f a, i = .cRstart f a ∧ c = 2) ∨ (i = .cStop ∧ c = 3) := by
  cases i
  case cStart | cRstart | cStop =>
    simp [programOf, cStartProgram, cRstartProgram, cStopProgram, frameAcked, List.getElem?_cons, ite_eq_iff]
    omega
  all_goals
    refine iff_of_false (fun h => absurd (List.mem_of_getElem? h) ?_) (by simp)
    simp [programOf, cWriteProgram, cReadProgram, pStartProgram, pReadProgram, pWriteProgram]

/-- The WAIT_START_DET step is P_START's step 1 (R183). -/
theorem program_waitStartDet_iff {i : Instr} {c : Nat} :
    (programOf i)[c]? = some .waitStartDet ↔ (∃ own, i = .pStart own) ∧ c = 1 := by
  cases i
  case pStart =>
    simp [programOf, pStartProgram, List.getElem?_cons, ite_eq_iff]
    omega
  all_goals
    refine iff_of_false (fun h => absurd (List.mem_of_getElem? h) ?_) (by simp)
    simp [programOf, cStartProgram, cRstartProgram, cWriteProgram, cReadProgram, cStopProgram, pReadProgram,
      pWriteProgram, frameAcked]

/-! ### START_DET -/

/-- A start condition between two states (R102): the data line fell with the clock high before and after. -/
def State.startBetween (s t : State) : Prop :=
  s.sclObs = true ∧ t.sclObs = true ∧ s.sdaObs = true ∧ t.sdaObs = false

theorem lineUpdate_startDet_iff {s : State} :
    (lineUpdate s).startDet = true ↔ s.startDet = true ∨ s.startBetween (lineUpdate s) := by
  simp [lineUpdate_startDet, State.startBetween, and_assoc]

/-- What no setting, no advance and no `finish` writes, an action list keeps (R119, R120). -/
theorem ActionList.run_keeps {α : Type} {f : State → α} (hset : ∀ (x : Setting) s, f (x.apply s) = f s)
    (hadvance : ∀ s, f (advance s) = f s) (hfinish : ∀ code s, f (finish code s) = f s) (l : ActionList) (s : State) :
    f (l.run s) = f s := by
  have hguarded (g : GuardedSetting) (s : State) : f (g.apply s) = f s := by
    unfold GuardedSetting.apply
    split
    · exact hset _ s
    · split
      · exact hset _ s
      · rfl
  have hsettings : f (l.settings.foldl GuardedSetting.apply s) = f s := by
    induction l.settings generalizing s with
    | nil => rfl
    | cons g gs ih => exact (ih _).trans (hguarded g s)
  unfold ActionList.run
  split
  · exact (hfinish _ _).trans hsettings
  · exact (hadvance _).trans hsettings

theorem ActionList.run_startDet (l : ActionList) (s : State) : (l.run s).startDet = s.startDet :=
  l.run_keeps (f := State.startDet) (fun x _ => by cases x <;> rfl) (fun _ => rfl) (fun _ _ => rfl) s

theorem transferStep_startDet {n : XferCount} {s t : State} (h : transferStep n s = .moved t)
    (hx : s.xstep.toNat ≠ 0) : t.startDet = s.startDet := by
  rcases transferStep_moved h with
    ⟨h0, -⟩ | ⟨-, rfl⟩ | ⟨-, -, rfl⟩ | ⟨-, -, -, rfl⟩ | ⟨-, -, rfl⟩ | ⟨-, rfl⟩ | ⟨-, rfl⟩ | ⟨-, rfl⟩ | ⟨-, rfl⟩ | ⟨-, rfl⟩
  · exact absurd h0 hx
  all_goals rfl

/-- No micro-operation but the X0 of a transfer writes START_DET before the line update (R26, R132). -/
theorem MicroOp.run_startDet {op : MicroOp} {s t : State} (h : op.run s = .moved t)
    (hx : ∀ n, op = .xfer n → s.xstep.toNat ≠ 0) : t.startDet = s.startDet := by
  cases op with
  | xfer n => exact transferStep_startDet h (hx n rfl)
  | set x => cases h; cases x <;> rfl
  | checkStart fail =>
    cases h
    split
    · rfl
    · exact fail.run_startDet s
  | ifThenElse c a b =>
    cases h
    split
    · exact a.run_startDet s
    · exact b.run_startDet s
  | waitSclHigh | waitStartDet =>
    simp only [MicroOp.run] at h
    split at h <;> cases h
    rfl
  | _ => cases h; rfl

/-- The block is at the X0 of a transfer of the command it executes. -/
def State.atTransferStart (s : State) : Prop :=
  s.xstep.toNat = 0 ∧ ∃ i, s.runs i ∧ xferAt i s.cstep.toNat ≠ none

theorem State.clearsStart_iff {s : State} : s.clearsStart ↔ s.engineActs ∧ s.atTransferStart := Iff.rfl

/-- X0 never holds (R132). -/
theorem engineTurn_atTransferStart {s : State} (h : s.atTransferStart) :
    ∃ n, engineTurn s = .next (lineUpdate (nextX (clearFlags n s))) := by
  obtain ⟨hx, i, hruns, hxfer⟩ := h
  obtain ⟨n, hn⟩ := Option.ne_none_iff_exists'.mp hxfer
  have hx0 : transferStep n s = .moved (nextX (clearFlags n s)) := by simp [transferStep, hx]
  exact ⟨n, by rw [engineTurn_runs hruns, exec_xfer hruns.1 hn, hx0]⟩

theorem engineTurn_startDet {s t : State} (h : engineTurn s = .next t) :
    t.startDet = true ↔ (s.startDet = true ∧ ¬ s.atTransferStart) ∨ s.startBetween t := by
  by_cases hstart : s.atTransferStart
  · obtain ⟨n, hn⟩ := engineTurn_atTransferStart hstart
    cases hn.symm.trans h
    rw [lineUpdate_startDet_iff]
    simp [hstart, State.startBetween, nextX, clearFlags]
  · obtain rfl | ⟨i, op, u, hruns, hop, hu, rfl⟩ := engineTurn_micro h
    · simp +contextual [hstart, State.startBetween]
    · have hkept : u.startDet = s.startDet := by
        refine MicroOp.run_startDet hu fun n hn hx => hstart ⟨hx, i, hruns, ?_⟩
        rw [xferAt_eq_some_iff.mpr (hop.trans (congrArg some hn))]
        exact Option.some_ne_none n
      have k := MicroOp.run_untouched hu
      rw [lineUpdate_startDet_iff, hkept]
      simp [hstart, State.startBetween, k.sclObs, k.sdaObs]

theorem hostTurn_startDet {w : Word} {s t : State} (h : hostTurn w s = .next t) :
    t.startDet = true ↔ s.startDet = true ∨ s.startBetween t := by
  obtain ⟨-, rfl⟩ | ⟨-, i, -, rfl⟩ | ⟨-, -, v, rfl⟩ := hostTurn_next h
  · simp +contextual [State.startBetween]
  · exact lineUpdate_startDet_iff
  · exact lineUpdate_startDet_iff

/-- Settles O16, by the agent of the step: only ENGINE at an X0 drops the flag, and each agent's line update sets it. -/
theorem startDetectorAndItsClearing : Obligations.StartDetectorAndItsClearing := by
  unfold Obligations.StartDetectorAndItsClearing
  intro s t hreset h
  rw [State.clearsStart_iff]
  obtain ⟨hs, ht⟩ | ⟨rest, hs, ht⟩ | ⟨w, rest, hs, ht⟩ | ⟨c, d, rest, hs, rfl⟩ | ⟨rest, hs, rfl⟩ := step_next h
  · have hengine : s.engineActs := .inl (by simp [hs])
    simp only [hengine, true_and]
    exact engineTurn_startDet ht
  · have hengine : s.engineActs := .inr (by simp [hs])
    simp only [hengine, true_and]
    exact engineTurn_startDet (s := { s with sched := rest }) ht
  · have hengine : ¬ s.engineActs := by simp [State.engineActs, hs]
    simp only [hengine, false_and, not_false_eq_true, and_true]
    exact hostTurn_startDet (s := { s with sched := rest }) ht
  · have hengine : ¬ s.engineActs := by simp [State.engineActs, hs]
    simp only [hengine, false_and, not_false_eq_true, and_true]
    exact lineUpdate_startDet_iff
  · exact absurd (by simp [hs]) hreset

/-! ### Holds -/

/-- The micro-operations that hold, each with the condition it waits for (R112, R115, R134, R142). -/
theorem MicroOp.run_holds {op : MicroOp} {s : State} :
    op.run s = .holds ↔
      (op = .waitSclHigh ∧ s.sclObs = false) ∨ (op = .waitStartDet ∧ s.startDet = false) ∨
      (∃ n, op = .xfer n ∧ s.xstep.toNat = 3 ∧ s.sclObs = false) ∨
      (∃ n, op = .xfer n ∧ s.xstep.toNat = 2 ∧ s.follows = true ∧ s.sclObs = true) := by
  cases op with
  | xfer n => simpa [MicroOp.run] using transferStep_holds
  | waitSclHigh => cases hs : s.sclObs <;> simp [MicroOp.run, hs]
  | waitStartDet => cases hs : s.startDet <;> simp [MicroOp.run, hs]
  | _ => simp [MicroOp.run]

theorem waitsForStart_iff {i : Instr} {s : State} :
    waitsForStart i s ↔ (programOf i)[s.cstep.toNat]? = some .waitStartDet :=
  program_waitStartDet_iff.symm

/-- The command `i` is where it waits for the clock to be high: WAIT_SCL_HIGH, or X3 of a transfer (R112, R134). -/
def waitsForClock (i : Instr) (s : State) : Prop :=
  (programOf i)[s.cstep.toNat]? = some .waitSclHigh ∨ (xferAt i s.cstep.toNat ≠ none ∧ s.xstep.toNat = 3)

theorem waitsForClock.not_waitsForStart {i : Instr} {s : State} (h : waitsForClock i s) : ¬ waitsForStart i s := by
  rw [waitsForStart_iff]
  intro hstart
  simp [waitsForClock, xferAt_eq_program, hstart, MicroOp.xferCount] at h

/-- R207's hold points are of two kinds: P_START's wait for START_DET, and a wait for the clock. -/
theorem holdPoint_iff {i : Instr} {s : State} :
    holdPoint i s ↔ (waitsForStart i s ∧ s.startDet = false) ∨ (waitsForClock i s ∧ s.sclObs = false) := by
  rw [waitsForClock, program_waitSclHigh_iff]
  unfold holdPoint waitsForStart
  split
  case h_5 hStart hRstart hStop hWait =>
    refine ⟨fun ⟨hxfer, hx, hscl⟩ => .inr ⟨.inr ⟨hxfer, hx⟩, hscl⟩, ?_⟩
    rintro (⟨⟨⟨own, hi⟩, hc⟩, -⟩ | ⟨(⟨f, a, hi, hc⟩ | ⟨f, a, hi, hc⟩ | ⟨hi, hc⟩) | ⟨hxfer, hx⟩, hscl⟩)
    · exact (hWait own hi hc).elim
    · exact (hStart f a hi hc).elim
    · exact (hRstart f a hi hc).elim
    · exact (hStop hi hc).elim
    · exact ⟨hxfer, hx, hscl⟩
  all_goals
    next hc => simp [hc, xferAt]

/-- The hold points are where the command's micro-operation holds (R105, R207). -/
theorem held_iff_run_holds {i : Instr} {s : State} :
    holdPoint i s ∨ followHold i s ↔ ∃ op, (programOf i)[s.cstep.toNat]? = some op ∧ op.run s = .holds := by
  simp only [holdPoint_iff, waitsForClock, waitsForStart_iff, followHold, MicroOp.run_holds, Option.ne_none_iff_exists',
    xferAt_eq_some_iff]
  constructor
  · rintro ((⟨hop, hdet⟩ | ⟨hop | ⟨⟨n, hop⟩, hx⟩, hscl⟩) | ⟨hf, ⟨n, hop⟩, hx, hscl⟩)
    · exact ⟨_, hop, .inr (.inl ⟨rfl, hdet⟩)⟩
    · exact ⟨_, hop, .inl ⟨rfl, hscl⟩⟩
    · exact ⟨_, hop, .inr (.inr (.inl ⟨n, rfl, hx, hscl⟩))⟩
    · exact ⟨_, hop, .inr (.inr (.inr ⟨n, rfl, hx, hf, hscl⟩))⟩
  · rintro ⟨op, hop, ⟨rfl, hscl⟩ | ⟨rfl, hdet⟩ | ⟨n, rfl, hx, hscl⟩ | ⟨n, rfl, hx, hf, hscl⟩⟩
    · exact .inl (.inr ⟨.inl hop, hscl⟩)
    · exact .inl (.inl ⟨hop, hdet⟩)
    · exact .inl (.inr ⟨.inr ⟨⟨n, hop⟩, hx⟩, hscl⟩)
    · exact .inr ⟨hf, ⟨n, hop⟩, hx, hscl⟩

/-- ENGINE has no step at a hold (R105, R207). -/
theorem engineTurn_held {i : Instr} {s : State} (hruns : s.runs i) (hheld : holdPoint i s ∨ followHold i s) :
    engineTurn s = .next s := by
  obtain ⟨op, hop, hholds⟩ := held_iff_run_holds.mp hheld
  rw [engineTurn_runs hruns, exec_busy hruns.1, engineStep_holds hop hholds]

theorem hostTurn_busy {w : Word} {s : State} (h : s.busy = true) : hostTurn w s = .next s := by
  rw [hostTurn, if_pos h]

/-- How a peer step that drives the clock line with `c`, from `s` to `t`, lifts the hold of `i` (R124, R142). -/
def peerLifts (i : Instr) (s t : State) (c : Bool) : Prop :=
  (¬ waitsForStart i s ∧ s.sclObs = false ∧ c = true ∧ t.sclObs = true) ∨
  (waitsForStart i s ∧ t.startDet = true) ∨
  (followHold i s ∧ c = false ∧ t.sclObs = false)

/-- A peer step leaves the command where it is, so the hold stays until the level or the flag it waits for comes. In FOLLOW
the lines must be settled: a clock seen high is then not pulled by the block, so a fall of it is the peer's. -/
theorem peer_keeps_or_lifts_hold {i : Instr} {s : State} (c d : Bool) (hsettled : s.linesSettled)
    (hheld : holdPoint i s ∨ followHold i s) :
    (holdPoint i (lineUpdate (setPeer c d s)) ∨ followHold i (lineUpdate (setPeer c d s))) ∨
      peerLifts i s (lineUpdate (setPeer c d s)) c := by
  have hobs : (lineUpdate (setPeer c d s)).sclObs = (s.ownScl && c) := lineUpdate_sclObs _
  rw [holdPoint_iff] at hheld
  obtain (⟨hwaits, -⟩ | ⟨hwaits, hlow⟩) | ⟨hfollows, hxfer, hx, hhigh⟩ := hheld
  · cases hdet : (lineUpdate (setPeer c d s)).startDet
    · exact .inl (.inl (holdPoint_iff.mpr (.inl ⟨hwaits, hdet⟩)))
    · exact .inr (.inr (.inl ⟨hwaits, hdet⟩))
  · cases hscl : (lineUpdate (setPeer c d s)).sclObs
    · exact .inl (.inl (holdPoint_iff.mpr (.inr ⟨hwaits, hscl⟩)))
    · have hc : c = true := (Bool.and_eq_true_iff.mp (hobs.symm.trans hscl)).2
      exact .inr (.inl ⟨hwaits.not_waitsForStart, hlow, hc, hscl⟩)
  · cases hscl : (lineUpdate (setPeer c d s)).sclObs
    · obtain ⟨hobsBefore, -, -⟩ := hsettled
      have hown : s.ownScl = true := (Bool.and_eq_true_iff.mp (hobsBefore.symm.trans hhigh)).1
      have hc : c = false := by simpa [hobs, hown] using hscl
      exact .inr (.inr (.inr ⟨⟨hfollows, hxfer, hx, hhigh⟩, hc, hscl⟩))
    · exact .inl (.inr ⟨hfollows, hxfer, hx, hscl⟩)

/-- Settles O19, by the agent of the step: ENGINE and HOST have no step at a hold, a peer step keeps or lifts it, and reset
ends the command. -/
theorem onlyPeerOrResetLiftsHold : Obligations.OnlyPeerOrResetLiftsHold := by
  unfold Obligations.OnlyPeerOrResetLiftsHold
  intro i s t hinv hruns hheld h
  obtain ⟨-, ht⟩ | ⟨rest, -, ht⟩ | ⟨w, rest, -, ht⟩ | ⟨c, d, rest, hs, rfl⟩ | ⟨rest, hs, rfl⟩ := step_next h
  · cases (engineTurn_held hruns hheld).symm.trans ht
    exact .inr ⟨hruns, or_assoc.mp (.inl hheld)⟩
  · cases (engineTurn_held (s := { s with sched := rest }) hruns hheld).symm.trans ht
    exact .inr ⟨hruns, or_assoc.mp (.inl hheld)⟩
  · cases (hostTurn_busy (s := { s with sched := rest }) hruns.1).symm.trans ht
    exact .inr ⟨hruns, or_assoc.mp (.inl hheld)⟩
  · have hpeer := peer_keeps_or_lifts_hold (s := { s with sched := rest }) c d hinv.settled hheld
    exact .inr ⟨hruns, or_assoc.mp (hpeer.imp_right fun hlifts => ⟨c, d, rest, hs, hlifts⟩)⟩
  · exact .inl ⟨rest, hs, rfl⟩

end Sys2Proof.Machine
end

section
namespace Sys2Proof.Machine

/-! ### The address match -/

theorem addressMatch_rawByte_iff {a : Byte} {own : Addr} :
    addressMatch .rawByte a own = true ↔ a.toNat = own.toNat := by
  rw [addressMatch, decide_eq_true_iff, ← BitVec.toNat_inj, BitVec.toNat_setWidth_of_le (by decide)]

theorem addressMatch_addrBits_iff {a : Byte} {own : Addr} :
    addressMatch .addrBits a own = true ↔ ∀ k, k < 7 → a.getLsbD (k + 1) = own.getLsbD k := by
  rw [addressMatch, decide_eq_true_iff, BitVec.eq_of_getLsbD_eq_iff]
  exact forall₂_congr fun k hk => by simp [hk, Nat.add_comm]

/-- A frame is twice its address and more (R66), and under RAW_BYTE it must be a 7-bit number, so half of the addresses
cannot match (R182). -/
theorem addr_le_of_rawByte_match {a : Addr} {f : Bool} {own : Addr}
    (h : addressMatch .rawByte (frame a f) own = true) : a.toNat ≤ 0x3F := by
  have hframe : 2 * a.toNat + f.toNat = own.toNat := (frame_toNat a f).symm.trans (addressMatch_rawByte_iff.mp h)
  have hown : own.toNat < 128 := own.isLt
  omega

/-- Under RAW_BYTE the own address fixes the direction: its bit 0 is compared with the frame's (R182). -/
theorem direction_of_rawByte_match {a : Addr} {f : Bool} {own : Addr}
    (h : addressMatch .rawByte (frame a f) own = true) : f = own.getLsbD 0 :=
  calc f = (frame a f).getLsbD 0 := (frame_getLsbD_zero a f).symm
    _ = own.getLsbD 0 := congrArg (Nat.testBit · 0) (addressMatch_rawByte_iff.mp h)

/-- Settles O6, comparison by comparison; R182's two examples are evaluated. -/
theorem addressMatchModes : Obligations.AddressMatchModes := by
  unfold Obligations.AddressMatchModes
  refine ⟨fun _ _ => addressMatch_rawByte_iff, fun _ _ => addressMatch_addrBits_iff,
    fun _ _ h => h.elim addr_le_of_rawByte_match addr_le_of_rawByte_match,
    fun _ _ _ => direction_of_rawByte_match, rfl, ?_⟩
  decide

/-! ### The acceptance of a command -/

/-- The acceptance path writes nothing the line model reads (R104). -/
theorem acceptCommand_settled {w : Word} {permitted : Bool} {s : State} (h : s.linesSettled) :
    (acceptCommand w permitted s).linesSettled :=
  h

/-- Settles O7, by the role of the command: either path of R104 keeps the lines settled, so the line update after it changes
nothing. -/
theorem idleBlockAcceptsCommand : Obligations.IdleBlockAcceptsCommand := by
  unfold Obligations.IdleBlockAcceptsCommand
  intro i s hidle hsettled
  rw [exec_idle hidle]
  by_cases hrole : i.role = s.cfg.role
  · rw [if_pos hrole, if_pos hrole.symm, lineUpdate_of_settled (acceptCommand_settled hsettled)]
    rfl
  · rw [if_neg hrole, if_neg (Ne.symm hrole), lineUpdate_of_settled (refuseCommand_settled hsettled)]
    rfl

end Sys2Proof.Machine
end

section
namespace Sys2Proof.Machine

/-! ### The reset step -/

/-- RESET is always enabled, and its turn asks nothing of the state: no command and no hold stands in its way (R230). -/
theorem step_reset {s : State} {rest : List Event} (h : s.sched = .reset :: rest) :
    step s = .next (resetBlock { s with sched := rest }) := by
  rw [step_cons h, turn, resetTurn]

/-- Settles O12: the step is `resetBlock`, whose fields are R46's values, with the configuration and the peer's drives kept. -/
theorem resetStep : Obligations.ResetStep := by
  unfold Obligations.ResetStep
  intro s rest hsched
  rw [step_reset hsched]
  rfl

end Sys2Proof.Machine
end

section
namespace Sys2Proof

/-! ### Decoding the word of a command -/

/-- The word of a command matches the mask and match of its row (R82). -/
theorem encode_and_mask (i : Instr) :
    encode i &&& (Laws.rowOfInstr i).mask = (Laws.rowOfInstr i).pattern := by
  have h : Laws.RowSelect.Statement i := by
    cases i with
    | cStart f a => exact Laws.RowSelect.cStart f a
    | cRstart f a => exact Laws.RowSelect.cRstart f a
    | cWrite d => exact Laws.RowSelect.cWrite d
    | cRead more => exact Laws.RowSelect.cRead more
    | cStop => exact Laws.RowSelect.cStop
    | pStart own => exact Laws.RowSelect.pStart own
    | pRead => exact Laws.RowSelect.pRead
    | pWrite d => exact Laws.RowSelect.pWrite d
  exact (h _).mpr rfl

/-- Every mask covers the whole opcode (R82), so the opcode of a command's word is that of its row. -/
theorem rowOf_opField_encode (i : Instr) : rowOf (opField (encode i)) = some (Laws.rowOfInstr i) := by
  obtain ⟨hand, -⟩ := fields_and (encode i) (Laws.rowOfInstr i).mask
  have hmask (row : Row) : opField row.mask = BitVec.allOnes 4 := by cases row <;> rfl
  have hpattern (row : Row) : rowOf (opField row.pattern) = some row := by cases row <;> rfl
  rw [encode_and_mask, hmask, BitVec.and_allOnes] at hand
  rw [← hand, hpattern]

/-- An operand of `n` bits is read back from the low end of the word (R81). -/
theorem extractLsb'_setWidth_word {n : Nat} (hn : n ≤ 16) (x : BitVec n) : (x.setWidth 16).extractLsb' 0 n = x := by
  rw [BitVec.extractLsb'_setWidth_of_le (by omega), BitVec.extractLsb'_eq_self]

theorem instr_encode (i : Instr) : (Laws.rowOfInstr i).instr (encode i) = i := by
  cases i with
  | cRead more => cases more <;> rfl
  | cStart f a | cRstart f a =>
    cases f <;>
      simp [encode, Row.instr, Laws.rowOfInstr, flagField, addrField, BitVec.extractLsb'_or, extractLsb'_setWidth_word]
  | _ =>
    simp [encode, Row.instr, Laws.rowOfInstr, immField, addrField, BitVec.extractLsb'_or, extractLsb'_setWidth_word]

theorem decodeWord_encode (i : Instr) : decodeWord (encode i) = .ok i := by
  simp only [decodeWord, rowOf_opField_encode, encode_and_mask, if_pos, instr_encode]

theorem decode_encode (r : Role) (i : Instr) :
    decode r (encode i) = if i.role = r then .ok i else .error .wrongRole := by
  rw [decode, decodeWord_encode]

theorem encode_of_decode {r : Role} {w : Word} {i : Instr} (h : decode r w = .ok i) : i.role = r ∧ encode i = w := by
  unfold decode at h
  split at h
  · cases h
  · next j hj =>
    split at h
    · next hr => cases h; exact ⟨hr, encode_of_decodeWord hj⟩
    · cases h

/-- Settles O2: the opcode of a command's word selects its row, whose mask test it passes, and the operands are read back from
their fields; the other direction is `encode_of_decodeWord`. -/
theorem decodeAndEncodeInverse : Obligations.DecodeAndEncodeInverse := by
  unfold Obligations.DecodeAndEncodeInverse
  exact ⟨decodeWord_encode, fun _ _ => encode_of_decodeWord, decode_encode⟩

end Sys2Proof

namespace Sys2Proof.Machine

/-- Settles O1: the eight words, evaluated. -/
theorem specWordsDecode : Obligations.SpecWordsDecode := by
  unfold Obligations.SpecWordsDecode
  exact ⟨rfl, rfl, rfl, rfl, rfl, rfl, rfl, rfl⟩

/-- Settles O3: the equivalence is `decode_error_iff_illegalWord`, which splits by the row the opcode selects. -/
theorem illegalWordsAreTheSixCases : Obligations.IllegalWordsAreTheSixCases := by
  unfold Obligations.IllegalWordsAreTheSixCases
  exact decode_error_iff_illegalWord

/-! ### The assembler -/

/-- The table's words are sums: an operand of `n` bits stands below the bits the opcode and the flag set, so it takes no carry
into them (R88). -/
theorem or_operand_eq_add (n k : Nat) {x : Nat} (hn : n ≤ 16) (hx : x < 2 ^ n) :
    BitVec.ofNat 16 (2 ^ n * k) ||| (BitVec.ofNat n x).setWidth 16 = BitVec.ofNat 16 (2 ^ n * k + x) := by
  rw [BitVec.setWidth_ofNat_of_le_of_lt hn hx, ← BitVec.ofNat_or, Nat.two_pow_add_eq_or_of_lt hx]

theorem encode_cStart_ofNat {v : Nat} (h : v ≤ 0x7F) (f : Bool) :
    encode (.cStart f (BitVec.ofNat 7 v)) = BitVec.ofNat 16 (0x1000 + (if f then 0x0800 else 0) + v) := by
  cases f
  · exact or_operand_eq_add 7 32 (by decide) (Nat.lt_succ_of_le h)
  · exact or_operand_eq_add 7 48 (by decide) (Nat.lt_succ_of_le h)

theorem encode_cRstart_ofNat {v : Nat} (h : v ≤ 0x7F) (f : Bool) :
    encode (.cRstart f (BitVec.ofNat 7 v)) = BitVec.ofNat 16 (0x2000 + (if f then 0x0800 else 0) + v) := by
  cases f
  · exact or_operand_eq_add 7 64 (by decide) (Nat.lt_succ_of_le h)
  · exact or_operand_eq_add 7 80 (by decide) (Nat.lt_succ_of_le h)

theorem encode_pStart_ofNat {v : Nat} (h : v ≤ 0x7F) :
    encode (.pStart (BitVec.ofNat 7 v)) = BitVec.ofNat 16 (0x8000 + v) :=
  or_operand_eq_add 7 256 (by decide) (Nat.lt_succ_of_le h)

theorem encode_cWrite_ofNat {v : Nat} (h : v ≤ 0xFF) :
    encode (.cWrite (BitVec.ofNat 8 v)) = BitVec.ofNat 16 (0x3000 + v) :=
  or_operand_eq_add 8 48 (by decide) (Nat.lt_succ_of_le h)

theorem encode_pWrite_ofNat {v : Nat} (h : v ≤ 0xFF) :
    encode (.pWrite (BitVec.ofNat 8 v)) = BitVec.ofNat 16 (0xA000 + v) :=
  or_operand_eq_add 8 160 (by decide) (Nat.lt_succ_of_le h)

/-- A line of one command: its word where the operand is in range, nothing otherwise (R88). -/
theorem assemble_single {l : AsmLine} {i : Instr} {w : Word} {p : Prop} [Decidable p] (hcommands : l.commands = [i])
    (hrange : l.inRange = decide p) (hw : p → encode i = w) : assemble l = if p then some [w] else none := by
  by_cases hp : p
  · simp [assemble, hcommands, hrange, hp, hw hp]
  · simp [assemble, hrange, hp]

theorem assemble_cReadBuf (n : AsmNumber) :
    assemble (.cReadBuf n) =
      if 1 ≤ n.value then some (List.replicate (n.value - 1) 0x4800#16 ++ [0x4000#16]) else none := by
  simp [assemble, AsmLine.inRange, AsmLine.commands, encode]

/-- Settles O4, row by row: a digit list is a left fold, a line of one command has the word `encode` gives where its operand
is in range, and C_READBUF is a list of copies. -/
theorem assemblerTable : Obligations.AssemblerTable := by
  unfold Obligations.AssemblerTable
  exact ⟨⟨rfl, fun ds d => by simp [AsmNumber.value]⟩, ⟨rfl, fun ds d => by simp [AsmNumber.value]⟩,
    fun _ f => assemble_single rfl rfl (encode_cStart_ofNat · f),
    fun _ f => assemble_single rfl rfl (encode_cRstart_ofNat · f),
    fun _ => assemble_single rfl rfl encode_cWrite_ofNat, rfl, rfl, rfl,
    fun _ => assemble_single rfl rfl encode_pStart_ofNat, rfl,
    fun _ => assemble_single rfl rfl encode_pWrite_ofNat, assemble_cReadBuf⟩

end Sys2Proof.Machine
end

section
namespace Sys2Proof.Machine

/-! ### HOST's turn with a legal word -/

/-- A word the block's role decodes, offered to an idle block, takes the legal path (R104). -/
theorem hostTurn_accepts {w : Word} {i : Instr} {s : State} (hidle : s.busy = false)
    (h : decode s.cfg.role w = .ok i) :
    hostTurn w s = .next (lineUpdate (acceptCommand w (orderPermits i s) s)) := by
  obtain ⟨hrole, rfl⟩ := encode_of_decode h
  rw [hostTurn, if_neg (by simp [hidle]), decodeWord_encode]
  exact (exec_idle hidle).trans (if_pos hrole.symm)

/-- Settles O8: a busy block takes no word, an illegal word is O9, and on settled lines the line update after the legal path
changes nothing. -/
theorem hostOffersWord : Obligations.HostOffersWord := by
  unfold Obligations.HostOffersWord
  intro s w rest hsched hsettled
  refine ⟨fun hbusy => ?_, fun hidle e he => ?_, fun hidle i hi => ?_⟩
  · rw [step_cons hsched]
    exact hostTurn_busy hbusy
  · exact illegalWordRefused s w rest hsched hidle hsettled ((decode_error_iff_illegalWord _ w).mp ⟨e, he⟩)
  · have hrest : State.linesSettled { s with sched := rest } := hsettled
    calc step s
        = hostTurn w { s with sched := rest } := step_cons hsched
      _ = .next (lineUpdate (acceptCommand w (orderPermits i { s with sched := rest }) { s with sched := rest })) :=
          hostTurn_accepts hidle hi
      _ = .next (acceptCommand w (orderPermits i s) { s with sched := rest }) := by
          rw [lineUpdate_of_settled (acceptCommand_settled hrest), orderPermits_sched]

/-! ### Placing a word -/

/-- The top opcode bit of a command's word gives its role (92_eei_decisions.md D3). -/
theorem roleOfWord_encode (i : Instr) : roleOfWord (encode i) = i.role := by
  cases i with
  | cStart f a | cRstart f a => cases f <;> simp [roleOfWord, encode, Instr.role]
  | cRead more => cases more <;> rfl
  | _ => simp [roleOfWord, encode, Instr.role]

theorem withFetchWord_eq (s : State) (w : Word) : s.withFetchWord 16 w.toNat = offerWord w s := by
  rw [State.withFetchWord, if_pos rfl, BitVec.ofNat_toNat, BitVec.setWidth_eq]

/-- Settles O10, by the next event: ENGINE's turn is `exec` of the command in CMDR, HOST's of the word offered. -/
theorem stepRunsDecodedCommand : Obligations.StepRunsDecodedCommand := by
  unfold Obligations.StepRunsDecodedCommand
  have hoffer {s : State} {w : Word} {i : Instr} (hidle : s.busy = false) (hi : decodeWord w = .ok i) :
      hostTurn w s = exec i s := by
    simp [hostTurn, hidle, hi]
  refine ⟨fun s i hsched hbusy hi => ?_, fun s i rest hsched hbusy hi => ?_, fun s w i rest hsched hidle hi => ?_,
    fun s hsched hidle => ?_, fun s w i hi => ?_⟩
  · rw [step_nil hsched, engineTurn_runs ⟨hbusy, hi⟩]
  · rw [step_cons hsched]
    exact engineTurn_runs ⟨hbusy, hi⟩
  · rw [step_cons hsched]
    exact hoffer hidle hi
  · rw [step_nil hsched, engineTurn_idle hidle]
  · rw [withFetchWord_eq, ← roleOfWord_encode, encode_of_decodeWord hi]
    exact (step_cons (s := offerWord w s) rfl).trans (hoffer (s := { offerWord w s with sched := s.sched }) rfl hi)

/-! ### The output latch and the silent stop -/

/-- What the line update leaves in the latch: its value where the clock is high, SR[7] where it is low (R32). -/
theorem lineUpdate_latch (s : State) :
    ((lineUpdate s).sclObs = true → (lineUpdate s).dol = s.dol) ∧
      ((lineUpdate s).sclObs = false → (lineUpdate s).dol = (lineUpdate s).sr.getLsbD 7) :=
  ⟨fun h => by rw [lineUpdate_dol, if_pos h], fun h => by rw [lineUpdate_dol, if_neg (by simp [h])]; rfl⟩

theorem engineTurn_latch {s t : State} (hs : s.linesSettled) (h : engineTurn s = .next t) :
    (t.sclObs = true → t.dol = s.dol) ∧ (t.sclObs = false → t.dol = t.sr.getLsbD 7) := by
  obtain rfl | ⟨i, op, u, -, -, hu, rfl⟩ := engineTurn_micro h
  · obtain ⟨-, hlatch, -⟩ := hs
    exact ⟨fun _ => rfl, hlatch⟩
  · rw [← (MicroOp.run_untouched hu).dol]
    exact lineUpdate_latch u

theorem hostTurn_latch {w : Word} {s t : State} (hs : s.linesSettled) (h : hostTurn w s = .next t) :
    (t.sclObs = true → t.dol = s.dol) ∧ (t.sclObs = false → t.dol = t.sr.getLsbD 7) := by
  obtain ⟨-, rfl⟩ | ⟨-, i, -, rfl⟩ | ⟨-, -, v, rfl⟩ := hostTurn_next h
  · obtain ⟨-, hlatch, -⟩ := hs
    exact ⟨fun _ => rfl, hlatch⟩
  · exact lineUpdate_latch (acceptCommand (encode i) (orderPermits i s) s)
  · exact lineUpdate_latch (refuseCommand v s)

/-- Settles O15, by the agent of the step: no agent but RESET writes the latch itself, and the line update ends every step. -/
theorem latchFollowsWhileClockLow : Obligations.LatchFollowsWhileClockLow := by
  unfold Obligations.LatchFollowsWhileClockLow
  intro s t hs hreset h
  obtain ⟨-, ht⟩ | ⟨rest, -, ht⟩ | ⟨w, rest, -, ht⟩ | ⟨c, d, rest, -, rfl⟩ | ⟨rest, hsched, -⟩ := step_next h
  · exact engineTurn_latch hs ht
  · exact engineTurn_latch (s := { s with sched := rest }) hs ht
  · exact hostTurn_latch (s := { s with sched := rest }) hs ht
  · exact lineUpdate_latch (setPeer c d { s with sched := rest })
  · exact absurd (by simp [hsched]) hreset

/-- The line update writes four fields (R101). -/
theorem lineUpdate_eq (s : State) :
    lineUpdate s = { s with
      sclObs := (lineUpdate s).sclObs, dol := (lineUpdate s).dol, sdaObs := (lineUpdate s).sdaObs
      startDet := (lineUpdate s).startDet } :=
  rfl

/-- Settles O17: with the clock high the line update keeps the latch, and a rise of the data line is no start. -/
theorem stopConditionIsSilent : Obligations.StopConditionIsSilent := by
  unfold Obligations.StopConditionIsSilent
  intro s t c d rest _ hsched h hscl htscl hsda htsda
  cases (step_cons hsched).symm.trans h
  have hstart : (lineUpdate (setPeer c d { s with sched := rest })).startDet = s.startDet := by
    simp [lineUpdate_startDet, hsda]
  rw [lineUpdate_eq, (lineUpdate_latch _).1 htscl, htscl, htsda, hstart, ← hscl]
  rfl

/-! ### What no step changes -/

theorem engineTurn_keeps {s t : State} (h : engineTurn s = .next t) : t.cfg = s.cfg ∧ t.cmdr = s.cmdr := by
  obtain rfl | ⟨i, op, u, -, -, hu, rfl⟩ := engineTurn_micro h
  · exact ⟨rfl, rfl⟩
  · have k := MicroOp.run_untouched hu
    exact ⟨k.cfg, k.cmdr⟩

theorem hostTurn_cfg {w : Word} {s t : State} (h : hostTurn w s = .next t) : t.cfg = s.cfg := by
  obtain ⟨-, rfl⟩ | ⟨-, i, -, rfl⟩ | ⟨-, -, v, rfl⟩ := hostTurn_next h <;> rfl

/-- HOST's offer leaves CMDR alone while the block is busy; an idle block takes the word, legal or not (R36, R104). -/
theorem hostTurn_cmdr {w : Word} {s t : State} (h : hostTurn w s = .next t) :
    (s.busy = true ∧ t.cmdr = s.cmdr) ∨ (s.busy = false ∧ t.cmdr = w) := by
  obtain ⟨hbusy, rfl⟩ | ⟨hidle, i, hi, rfl⟩ | ⟨hidle, ⟨e, he⟩, -⟩ := hostTurn_next h
  · exact .inl ⟨hbusy, rfl⟩
  · exact .inr ⟨hidle, (encode_of_decode hi).2⟩
  · cases (hostTurn_refuses hidle he).symm.trans h
    exact .inr ⟨hidle, rfl⟩

/-- Settles O53, by the agent of the step. -/
theorem configurationNeverChanges : Obligations.ConfigurationNeverChanges := by
  unfold Obligations.ConfigurationNeverChanges
  intro s t h
  obtain ⟨-, ht⟩ | ⟨rest, -, ht⟩ | ⟨w, rest, -, ht⟩ | ⟨c, d, rest, -, rfl⟩ | ⟨rest, -, rfl⟩ := step_next h
  · exact (engineTurn_keeps ht).1
  · exact (engineTurn_keeps ht).1
  · exact hostTurn_cfg (s := { s with sched := rest }) ht
  · rfl
  · rfl

/-- Settles O56, by the agent of the step: CMDR is HOST's and RESET's to write, and on an idle block ENGINE has no step. -/
theorem commandAndResponseHeld : Obligations.CommandAndResponseHeld := by
  unfold Obligations.CommandAndResponseHeld
  intro s t h
  obtain ⟨-, ht⟩ | ⟨rest, -, ht⟩ | ⟨w, rest, hs, ht⟩ | ⟨c, d, rest, -, rfl⟩ | ⟨rest, hs, rfl⟩ := step_next h
  · refine ⟨fun hne => absurd (engineTurn_keeps ht).2 hne, fun hidle _ _ => ?_⟩
    cases (engineTurn_idle hidle).symm.trans ht
    exact ⟨rfl, rfl, rfl⟩
  · refine ⟨fun hne => absurd (engineTurn_keeps ht).2 hne, fun hidle _ _ => ?_⟩
    cases (engineTurn_idle (s := { s with sched := rest }) hidle).symm.trans ht
    exact ⟨rfl, rfl, rfl⟩
  · refine ⟨fun hne => ?_, fun _ _ hhost => absurd (by simp [hs]) (hhost w)⟩
    obtain ⟨-, hkept⟩ | ⟨hidle, hw⟩ := hostTurn_cmdr ht
    · exact absurd hkept hne
    · exact .inr ⟨w, rest, hs, hidle, hw⟩
  · exact ⟨fun hne => absurd rfl hne, fun _ _ _ => ⟨rfl, rfl, rfl⟩⟩
  · exact ⟨fun _ => .inl ⟨rest, hs⟩, fun _ hreset _ => absurd (by simp [hs]) hreset⟩

end Sys2Proof.Machine
end

section
namespace Sys2Proof.Machine

/-! ### What a micro-operation can do: a transfer step, an action list, or one effect and the next step -/

/-- The effect of a micro-operation that goes on to the next step of its micro-program (R106 to R116, R125). -/
def MicroOp.effect (op : MicroOp) (s : State) : State :=
  match op with
  | .clkRel => Machine.clkRel s
  | .clkLow => Machine.clkLow s
  | .datLow => Machine.datLow s
  | .datRel => Machine.datRel s
  | .datIn => Machine.datIn s
  | .datOut => Machine.datOut s
  | .loadSr v => Machine.loadSr v s
  | .set x => x.apply s
  | .saveRdata => Machine.saveRdata s
  | _ => s

/-- The action lists a micro-operation can run (R117, R119, R120). -/
def MicroOp.lists : MicroOp → List ActionList
  | .finish code => [{ settings := [], ending := some code }]
  | .checkStart fail => [fail]
  | .ifThenElse _ a b => [a, b]
  | _ => []

/-- A micro-operation that, once it is taken, can go on to the next step by its effect. -/
def MicroOp.goesOn : MicroOp → Bool
  | .xfer _ | .finish _ | .ifThenElse _ _ _ => false
  | _ => true

theorem MicroOp.run_moved {op : MicroOp} {s u : State} (h : op.run s = .moved u) :
    (∃ n, op = .xfer n ∧ transferStep n s = .moved u) ∨
    (∃ l ∈ op.lists, u = l.run s) ∨
    (u = advance (op.effect s) ∧ op.goesOn = true) := by
  cases op with
  | xfer n => exact .inl ⟨n, rfl, h⟩
  | finish code => cases h; exact .inr (.inl ⟨_, List.mem_singleton_self _, rfl⟩)
  | checkStart fail =>
    cases h
    split
    · exact .inr (.inr ⟨rfl, rfl⟩)
    · exact .inr (.inl ⟨fail, List.mem_singleton_self _, rfl⟩)
  | ifThenElse c a b =>
    cases h
    split
    · exact .inr (.inl ⟨a, by simp [lists], rfl⟩)
    · exact .inr (.inl ⟨b, by simp [lists], rfl⟩)
  | waitSclHigh | waitStartDet =>
    simp only [MicroOp.run] at h
    split at h <;> cases h
    exact .inr (.inr ⟨rfl, rfl⟩)
  | _ => cases h; exact .inr (.inr ⟨rfl, rfl⟩)

/-- An action list ends the command or goes on to the next step (R119). -/
theorem ActionList.run_ending (l : ActionList) (s : State) :
    (∃ code, l.ending = some code ∧ l.run s = finish code (l.settings.foldl GuardedSetting.apply s)) ∨
    (l.ending = none ∧ l.run s = advance (l.settings.foldl GuardedSetting.apply s)) := by
  unfold ActionList.run
  cases l.ending with
  | some code => exact .inl ⟨code, rfl, rfl⟩
  | none => exact .inr ⟨rfl, rfl⟩

/-! ### The registers a micro-operation writes -/

/-- The registers the micro-operations write before the line update, START_DET, the command's own and the response apart. -/
inductive Reg where
  | sr | tmp | rdata | ovf | cnt | xn | clkPort | datDir | datPort | cstate | pstate | xdir
  deriving DecidableEq

/-- `t` has the registers of `s`, except perhaps those of `w`. -/
structure Kept (w : List Reg) (s t : State) : Prop where
  sr : Reg.sr ∉ w → t.sr = s.sr
  tmp : Reg.tmp ∉ w → t.tmp = s.tmp
  rdata : Reg.rdata ∉ w → t.rdata = s.rdata
  ovf : Reg.ovf ∉ w → t.ovf = s.ovf
  cnt : Reg.cnt ∉ w → t.cnt = s.cnt
  xn : Reg.xn ∉ w → t.xn = s.xn
  clkPort : Reg.clkPort ∉ w → t.clkPort = s.clkPort
  datDir : Reg.datDir ∉ w → t.datDir = s.datDir
  datPort : Reg.datPort ∉ w → t.datPort = s.datPort
  cstate : Reg.cstate ∉ w → t.cstate = s.cstate
  pstate : Reg.pstate ∉ w → t.pstate = s.pstate
  xdir : Reg.xdir ∉ w → t.xdir = s.xdir

theorem Kept.refl (w : List Reg) (s : State) : Kept w s s := by
  constructor <;> exact fun _ => rfl

theorem Kept.trans {v w : List Reg} {s t u : State} (h : Kept v s t) (k : Kept w t u) : Kept (v ++ w) s u := by
  constructor <;> intro hr <;> rw [List.mem_append, not_or] at hr
  · exact (k.sr hr.2).trans (h.sr hr.1)
  · exact (k.tmp hr.2).trans (h.tmp hr.1)
  · exact (k.rdata hr.2).trans (h.rdata hr.1)
  · exact (k.ovf hr.2).trans (h.ovf hr.1)
  · exact (k.cnt hr.2).trans (h.cnt hr.1)
  · exact (k.xn hr.2).trans (h.xn hr.1)
  · exact (k.clkPort hr.2).trans (h.clkPort hr.1)
  · exact (k.datDir hr.2).trans (h.datDir hr.1)
  · exact (k.datPort hr.2).trans (h.datPort hr.1)
  · exact (k.cstate hr.2).trans (h.cstate hr.1)
  · exact (k.pstate hr.2).trans (h.pstate hr.1)
  · exact (k.xdir hr.2).trans (h.xdir hr.1)

theorem Kept.mono {v w : List Reg} {s t : State} (h : Kept v s t) (hvw : v ⊆ w) : Kept w s t :=
  ⟨fun hr => h.sr (hr ∘ @hvw _), fun hr => h.tmp (hr ∘ @hvw _), fun hr => h.rdata (hr ∘ @hvw _),
    fun hr => h.ovf (hr ∘ @hvw _), fun hr => h.cnt (hr ∘ @hvw _), fun hr => h.xn (hr ∘ @hvw _),
    fun hr => h.clkPort (hr ∘ @hvw _), fun hr => h.datDir (hr ∘ @hvw _), fun hr => h.datPort (hr ∘ @hvw _),
    fun hr => h.cstate (hr ∘ @hvw _), fun hr => h.pstate (hr ∘ @hvw _), fun hr => h.xdir (hr ∘ @hvw _)⟩

/-- The register of the bookkeeping a setting writes (R116). -/
def Setting.reg : Setting → Reg
  | .setC _ => .cstate
  | .setP _ => .pstate
  | .setDir _ | .setDirTmp => .xdir

def ActionList.regs (l : ActionList) : List Reg :=
  l.settings.map (·.setting.reg)

/-- The registers a micro-operation can write (R106 to R120, R125, R131 to R138). -/
def MicroOp.regs : MicroOp → List Reg
  | .clkRel | .clkLow => [.clkPort]
  | .datLow | .datRel => [.datPort]
  | .datIn | .datOut => [.datDir]
  | .loadSr _ => [.sr]
  | .set x => [x.reg]
  | .xfer _ => [.sr, .tmp, .ovf, .cnt, .xn, .clkPort, .datDir]
  | .checkStart fail => fail.regs
  | .ifThenElse _ a b => a.regs ++ b.regs
  | .saveRdata => [.rdata]
  | _ => []

theorem Setting.apply_kept (x : Setting) (s : State) : Kept [x.reg] s (x.apply s) := by
  cases x <;> constructor <;> simp [Setting.reg, Setting.apply]

theorem GuardedSetting.apply_kept (g : GuardedSetting) (s : State) : Kept [g.setting.reg] s (g.apply s) := by
  unfold GuardedSetting.apply
  split
  · exact g.setting.apply_kept s
  · split
    · exact g.setting.apply_kept s
    · exact Kept.refl _ s

theorem settings_kept (l : List GuardedSetting) (s : State) :
    Kept (l.map (·.setting.reg)) s (l.foldl GuardedSetting.apply s) := by
  induction l generalizing s with
  | nil => exact Kept.refl _ s
  | cons g l ih => exact (g.apply_kept s).trans (ih _)

theorem advance_kept (s : State) : Kept [] s (advance s) := by
  constructor <;> exact fun _ => rfl

theorem finish_kept (code : ResultCode) (s : State) : Kept [] s (finish code s) := by
  constructor <;> exact fun _ => rfl

theorem lineUpdate_kept (s : State) : Kept [] s (lineUpdate s) := by
  constructor <;> exact fun _ => rfl

theorem ActionList.run_kept (l : ActionList) (s : State) : Kept l.regs s (l.run s) := by
  have h := settings_kept l.settings s
  obtain ⟨code, -, hrun⟩ | ⟨-, hrun⟩ := l.run_ending s <;> rw [hrun]
  · exact (h.trans (finish_kept code _)).mono (by simp [ActionList.regs])
  · exact (h.trans (advance_kept _)).mono (by simp [ActionList.regs])

theorem transferStep_kept {n : XferCount} {s t : State} (h : transferStep n s = .moved t) :
    Kept (MicroOp.xfer n).regs s t := by
  rcases transferStep_moved h with
    ⟨-, rfl⟩ | ⟨-, rfl⟩ | ⟨-, -, rfl⟩ | ⟨-, -, -, rfl⟩ | ⟨-, -, rfl⟩ | ⟨-, rfl⟩ | ⟨-, rfl⟩ | ⟨-, rfl⟩ | ⟨-, rfl⟩ | ⟨-, rfl⟩
  all_goals constructor <;> simp [MicroOp.regs]

theorem MicroOp.effect_kept (op : MicroOp) (s : State) : Kept op.regs s (op.effect s) := by
  cases op with
  | set x => exact x.apply_kept s
  | clkRel | clkLow | datLow | datRel | datIn | datOut | loadSr _ | saveRdata =>
    constructor <;> simp [MicroOp.regs, MicroOp.effect]
  | _ => exact Kept.refl _ s

theorem MicroOp.lists_regs {op : MicroOp} {l : ActionList} (hl : l ∈ op.lists) : l.regs ⊆ op.regs := by
  cases op <;> simp [MicroOp.lists] at hl
  case finish => subst hl; simp [ActionList.regs]
  case checkStart => subst hl; exact List.Subset.refl _
  case ifThenElse => obtain rfl | rfl := hl <;> simp [MicroOp.regs]

theorem MicroOp.run_kept {op : MicroOp} {s u : State} (h : op.run s = .moved u) : Kept op.regs s u := by
  obtain ⟨n, rfl, h⟩ | ⟨l, hl, rfl⟩ | ⟨rfl, -⟩ := MicroOp.run_moved h
  · exact transferStep_kept h
  · exact (l.run_kept s).mono (MicroOp.lists_regs hl)
  · exact ((op.effect_kept s).trans (advance_kept _)).mono (by simp)

/-- The registers a command's micro-program can write. -/
def programRegs (i : Instr) : List Reg :=
  (programOf i).flatMap MicroOp.regs

/-- Everything an engine step of a command leaves unchanged: what no micro-operation writes, and the registers its
micro-program does not name. -/
structure CommandFrame (i : Instr) (s t : State) : Prop where
  kept : Kept (programRegs i) s t
  cmdr : t.cmdr = s.cmdr
  clkDir : t.clkDir = s.clkDir
  fOrder : t.fOrder = s.fOrder
  fIllegal : t.fIllegal = s.fIllegal
  cfg : t.cfg = s.cfg
  envScl : t.envScl = s.envScl
  envSda : t.envSda = s.envSda
  sched : t.sched = s.sched

theorem exec_frame {i : Instr} {s t : State} (hbusy : s.busy = true) (h : exec i s = .next t) : CommandFrame i s t := by
  rw [exec_busy hbusy] at h
  obtain ⟨op, hop, ⟨-, rfl⟩ | ⟨u, hu, rfl⟩⟩ := engineStep_next h
  · exact ⟨Kept.refl _ _, rfl, rfl, rfl, rfl, rfl, rfl, rfl, rfl⟩
  · have hregs : op.regs ++ [] ⊆ programRegs i := by
      rw [List.append_nil]
      exact fun r hr => List.mem_flatMap.mpr ⟨op, List.mem_of_getElem? hop, hr⟩
    have k := MicroOp.run_untouched hu
    exact ⟨((MicroOp.run_kept hu).trans (lineUpdate_kept u)).mono hregs, k.cmdr, k.clkDir, k.fOrder, k.fIllegal, k.cfg,
      k.envScl, k.envSda, k.sched⟩

/-! ### The frames of the commands -/

theorem startCommands_notWritten (i : Instr) (h : ∃ f a, i = .cStart f a ∨ i = .cRstart f a) :
    Reg.rdata ∉ programRegs i ∧ Reg.pstate ∉ programRegs i := by
  obtain ⟨f, a, rfl | rfl⟩ := h <;>
    simp [programRegs, programOf, cStartProgram, cRstartProgram, frameAcked, startFailed, MicroOp.regs, ActionList.regs,
      Setting.reg]

theorem writeCommands_notWritten (i : Instr) (h : ∃ d, i = .cWrite d ∨ i = .pWrite d) :
    Reg.rdata ∉ programRegs i ∧ Reg.xdir ∉ programRegs i ∧ Reg.datPort ∉ programRegs i ∧
      (i.role = .controller → Reg.pstate ∉ programRegs i) ∧ (i.role = .peripheral → Reg.cstate ∉ programRegs i) := by
  obtain ⟨d, rfl | rfl⟩ := h <;>
    simp [programRegs, programOf, cWriteProgram, pWriteProgram, MicroOp.regs, ActionList.regs, Setting.reg, Instr.role]

theorem readCommands_notWritten (i : Instr) (h : (∃ more, i = .cRead more) ∨ i = .pRead) :
    Reg.pstate ∉ programRegs i ∧ Reg.xdir ∉ programRegs i ∧ Reg.datPort ∉ programRegs i ∧
      (i = .pRead → Reg.cstate ∉ programRegs i) := by
  obtain ⟨more, rfl⟩ | rfl := h <;>
    simp [programRegs, programOf, cReadProgram, pReadProgram, MicroOp.regs, ActionList.regs, Setting.reg]

theorem cStop_regs : programRegs .cStop = [.cstate, .datPort, .clkPort, .datPort, .cstate] := rfl

theorem pStart_notWritten (own : Addr) :
    Reg.cstate ∉ programRegs (.pStart own) ∧ Reg.datPort ∉ programRegs (.pStart own) := by
  simp [programRegs, programOf, pStartProgram, MicroOp.regs, ActionList.regs, Setting.reg]

/-- Settles O48, from the registers the two micro-programs name. -/
theorem startCommandsFrame : Obligations.StartCommandsFrame := by
  unfold Obligations.StartCommandsFrame
  intro i s t hi hbusy h
  obtain ⟨k, hcmdr, hclkDir, hOrder, hIllegal, hcfg, hscl, hsda, hsched⟩ := exec_frame hbusy h
  obtain ⟨hrdata, hpstate⟩ := startCommands_notWritten i hi
  exact ⟨k.rdata hrdata, hcmdr, k.pstate hpstate, hclkDir, hOrder, hIllegal, hcfg, hscl, hsda, hsched⟩

/-- Settles O49, from the registers the two micro-programs name. -/
theorem writeCommandsFrame : Obligations.WriteCommandsFrame := by
  unfold Obligations.WriteCommandsFrame
  intro i s t hi hbusy h
  obtain ⟨k, hcmdr, hclkDir, hOrder, hIllegal, hcfg, hscl, hsda, hsched⟩ := exec_frame hbusy h
  obtain ⟨hrdata, hxdir, hdatPort, hpstate, hcstate⟩ := writeCommands_notWritten i hi
  exact ⟨fun hrole => k.pstate (hpstate hrole), fun hrole => k.cstate (hcstate hrole), k.rdata hrdata, k.xdir hxdir,
    k.datPort hdatPort, hcmdr, hclkDir, hOrder, hIllegal, hcfg, hscl, hsda, hsched⟩

/-- Settles O50, from the registers the two micro-programs name. -/
theorem readCommandsFrame : Obligations.ReadCommandsFrame := by
  unfold Obligations.ReadCommandsFrame
  intro i s t hi hbusy h
  obtain ⟨k, hcmdr, hclkDir, hOrder, hIllegal, hcfg, hscl, hsda, hsched⟩ := exec_frame hbusy h
  obtain ⟨hpstate, hxdir, hdatPort, hcstate⟩ := readCommands_notWritten i hi
  exact ⟨fun hp => k.cstate (hcstate hp), k.pstate hpstate, k.xdir hxdir, k.datPort hdatPort, hcmdr, hclkDir, hOrder,
    hIllegal, hcfg, hscl, hsda, hsched⟩

/-- C_STOP runs no transfer, so no step of it clears START_DET (R26, R156). -/
theorem cStop_keeps_startDet {s t : State} (hbusy : s.busy = true) (h : exec .cStop s = .next t)
    (hdet : s.startDet = true) : t.startDet = true := by
  rw [exec_busy hbusy] at h
  obtain ⟨op, hop, ⟨-, rfl⟩ | ⟨u, hu, rfl⟩⟩ := engineStep_next h
  · exact hdet
  · have hxfer (n : XferCount) : op ≠ .xfer n := by
      rintro rfl
      exact absurd (List.mem_of_getElem? hop) (by simp [programOf, cStopProgram])
    have hkept : u.startDet = s.startDet := MicroOp.run_startDet hu fun n hn => absurd hn (hxfer n)
    rw [lineUpdate_startDet_iff, hkept]
    exact .inl hdet

/-- Settles O51, from the registers the micro-program names. -/
theorem stopCommandFrame : Obligations.StopCommandFrame := by
  unfold Obligations.StopCommandFrame
  intro s t hbusy h
  obtain ⟨k, hcmdr, hclkDir, hOrder, hIllegal, hcfg, hscl, hsda, hsched⟩ := exec_frame hbusy h
  rw [cStop_regs] at k
  exact ⟨k.sr (by decide), k.tmp (by decide), k.rdata (by decide), k.ovf (by decide), k.cnt (by decide),
    k.xn (by decide), cStop_keeps_startDet hbusy h, k.datDir (by decide), k.xdir (by decide), k.pstate (by decide),
    hcmdr, hclkDir, hOrder, hIllegal, hcfg, hscl, hsda, hsched⟩

/-- Settles O52, from the registers the micro-program names. -/
theorem pStartFrame : Obligations.PStartFrame := by
  unfold Obligations.PStartFrame
  intro own s t hbusy h
  obtain ⟨k, hcmdr, hclkDir, hOrder, hIllegal, hcfg, hscl, hsda, hsched⟩ := exec_frame hbusy h
  obtain ⟨hcstate, hdatPort⟩ := pStart_notWritten own
  exact ⟨k.cstate hcstate, k.datPort hdatPort, hcmdr, hclkDir, hOrder, hIllegal, hcfg, hscl, hsda, hsched⟩

end Sys2Proof.Machine
end

section
namespace Sys2Proof.Machine

/-! ### The steps of a transfer, one by one (R131 to R138, R142) -/

/-- R134's shift, as the rule writes it. -/
theorem shiftIn_sr_eq_shiftLeft (s : State) :
    (shiftIn s).sr = s.sr <<< 1 ||| (BitVec.ofBool s.sdaObs).setWidth 8 := by
  have hconcat : (shiftIn s).sr = (s.sr.extractLsb' 0 7).concat s.sdaObs := rfl
  refine BitVec.eq_of_getLsbD_eq fun k hk => ?_
  rw [hconcat]
  cases k with
  | zero => simp
  | succ k =>
    simp [hk]
    exact BitVec.getLsbD_eq_getElem (by omega)

theorem countLastEdge_ovf_eq (s : State) : (countLastEdge s).ovf = (s.ovf || decide (s.cnt = 1#5)) := by
  have h : ∀ c : BitVec 5, c - 1#5 = 0#5 ↔ c = 1#5 := by decide
  by_cases hc : s.cnt = 1#5 <;> simp [countLastEdge, h, hc]

theorem clkRel_of_drive {s : State} (h : s.follows = false) : clkRel s = { s with clkPort := true } := by
  simp [clkRel, h]

theorem clkLow_of_drive {s : State} (h : s.follows = false) : clkLow s = { s with clkPort := false } := by
  simp [clkLow, h]

theorem clkLow_of_follow {s : State} (h : s.follows = true) : clkLow s = s := by
  simp [clkLow, h]

section
variable {n : XferCount} {s : State}

theorem transferStep_X0 (h : s.xstep = 0#4) :
    transferStep n s = .moved { s with
      startDet := false, ovf := false, cnt := BitVec.ofNat 5 (2 * bitsOf n), xn := decide (n = .eight), xstep := 1#4 } := by
  cases n <;> simp [transferStep, h, nextX, clearFlags, edgesOf, isEight, bitsOf]

theorem transferStep_X1 (h : s.xstep = 1#4) : transferStep n s = .moved { s with xstep := 2#4 } := by
  simp [transferStep, h, nextX]

theorem transferStep_X2_drive (h : s.xstep = 2#4) (hf : s.follows = false) :
    transferStep n s = .moved { s with clkPort := true, cnt := s.cnt - 1#5, xstep := 3#4 } := by
  simp [transferStep, h, tglRise, hf, nextX, countEdge]

theorem transferStep_X2_follow (h : s.xstep = 2#4) (hf : s.follows = true) (hscl : s.sclObs = false) :
    transferStep n s = .moved { s with cnt := s.cnt - 1#5, xstep := 3#4 } := by
  simp [transferStep, h, tglRise, hf, hscl, nextX, countEdge]

theorem transferStep_X2_holds (h : s.xstep = 2#4) (hf : s.follows = true) (hscl : s.sclObs = true) :
    transferStep n s = .holds :=
  transferStep_holds.mpr (.inr ⟨by simp [h], hf, hscl⟩)

theorem transferStep_X3 (h : s.xstep = 3#4) (hscl : s.sclObs = true) :
    transferStep n s = .moved { s with
      sr := s.sr <<< 1 ||| (BitVec.ofBool s.sdaObs).setWidth 8, xstep := 4#4 } := by
  rw [← shiftIn_sr_eq_shiftLeft]
  simp [transferStep, h, waitHighAndSample, hscl, nextX, shiftIn]

theorem transferStep_X3_holds (h : s.xstep = 3#4) (hscl : s.sclObs = false) : transferStep n s = .holds :=
  transferStep_holds.mpr (.inl ⟨by simp [h], hscl⟩)

theorem transferStep_X4_drive (h : s.xstep = 4#4) (hf : s.follows = false) :
    transferStep n s = .moved { s with
      clkPort := false, cnt := s.cnt - 1#5, ovf := s.ovf || decide (s.cnt = 1#5), xstep := 5#4 } := by
  rw [← countLastEdge_ovf_eq]
  simp [transferStep, h, tglFall, clkLow_of_drive hf, nextX, countLastEdge]

theorem transferStep_X4_follow (h : s.xstep = 4#4) (hf : s.follows = true) :
    transferStep n s = .moved { s with
      cnt := s.cnt - 1#5, ovf := s.ovf || decide (s.cnt = 1#5), xstep := 5#4 } := by
  rw [← countLastEdge_ovf_eq]
  simp [transferStep, h, tglFall, clkLow_of_follow hf, nextX, countLastEdge]

theorem transferStep_X5 (h : s.xstep = 5#4) :
    transferStep n s = .moved { s with xstep := if s.ovf then 6#4 else 1#4 } := by
  simp [transferStep, h, loopTest]

theorem transferStep_X6 (h : s.xstep = 6#4) : transferStep n s = .moved { s with xstep := 7#4 } := by
  simp [transferStep, h, nextX]

theorem transferStep_X7 (h : s.xstep = 7#4) :
    transferStep n s = .moved { s with tmp := s.sr, sr := 0xFF#8, xstep := 8#4 } := by
  simp [transferStep, h, nextX, capture]

theorem transferStep_X8 (h : s.xstep = 8#4) :
    transferStep n s = .moved { s with datDir := true, xstep := 0#4, cstep := s.cstep + 1#4 } := by
  simp [transferStep, h, returnFromXfer, advance, datOut]

end

theorem exec_xfer_moved {i : Instr} {n : XferCount} {s u : State} (hbusy : s.busy = true)
    (hxfer : xferAt i s.cstep.toNat = some n) (h : transferStep n s = .moved u) : exec i s = .next (lineUpdate u) := by
  rw [exec_xfer hbusy hxfer, h]

theorem exec_xfer_holds {i : Instr} {n : XferCount} {s : State} (hbusy : s.busy = true)
    (hxfer : xferAt i s.cstep.toNat = some n) (h : transferStep n s = .holds) : exec i s = .next s := by
  rw [exec_xfer hbusy hxfer, h]

/-- Settles O21, step by step of the shift sequencer. -/
theorem transferSteps : Obligations.TransferSteps := by
  unfold Obligations.TransferSteps
  intro i n s hbusy hxfer hf
  have hmoved {u : State} := exec_xfer_moved (u := u) hbusy hxfer
  exact ⟨fun h => hmoved (transferStep_X0 h), fun h => hmoved (transferStep_X1 h),
    fun h => hmoved (transferStep_X2_drive h hf), fun h hscl => hmoved (transferStep_X3 h hscl),
    fun h hscl => exec_xfer_holds hbusy hxfer (transferStep_X3_holds h hscl),
    fun h => hmoved (transferStep_X4_drive h hf), fun h => hmoved (transferStep_X5 h),
    fun h => hmoved (transferStep_X6 h), fun h => hmoved (transferStep_X7 h), fun h => hmoved (transferStep_X8 h)⟩

/-! ### CLK_PORT in FOLLOW mode -/

theorem MicroOp.run_clkPort_of_follow {op : MicroOp} {s u : State} (h : op.run s = .moved u) (hf : s.follows = true) :
    u.clkPort = s.clkPort := by
  obtain ⟨n, rfl, h⟩ | ⟨l, hl, rfl⟩ | ⟨rfl, -⟩ := MicroOp.run_moved h
  · rcases transferStep_moved h with
      ⟨-, rfl⟩ | ⟨-, rfl⟩ | ⟨-, hdrive, -⟩ | ⟨-, -, -, rfl⟩ | ⟨-, -, rfl⟩ | ⟨-, rfl⟩ | ⟨-, rfl⟩ | ⟨-, rfl⟩ | ⟨-, rfl⟩ |
      ⟨-, rfl⟩
    case inr.inr.inl => rw [hf] at hdrive; cases hdrive
    case inr.inr.inr.inr.inr.inl => simp [hf]
    all_goals rfl
  · have hsetting (x : Setting) : x.reg ≠ .clkPort := by cases x <;> exact nofun
    exact (l.run_kept s).clkPort (by simp [ActionList.regs, hsetting])
  · cases op with
    | clkRel | clkLow => simp [MicroOp.effect, hf]
    | set x => cases x <;> rfl
    | _ => rfl

theorem engineTurn_clkPort_of_follow {s t : State} (hf : s.follows = true) (h : engineTurn s = .next t) :
    t.clkPort = s.clkPort := by
  obtain rfl | ⟨i, op, u, -, -, hu, rfl⟩ := engineTurn_micro h
  · rfl
  · exact (MicroOp.run_clkPort_of_follow hu hf :)

theorem hostTurn_clkPort {w : Word} {s t : State} (h : hostTurn w s = .next t) : t.clkPort = s.clkPort := by
  obtain ⟨-, rfl⟩ | ⟨-, i, -, rfl⟩ | ⟨-, -, v, rfl⟩ := hostTurn_next h <;> rfl

theorem step_clkPort_of_follow {s t : State} (hf : s.follows = true) (hport : s.clkPort = true)
    (h : step s = .next t) : t.clkPort = true := by
  obtain ⟨-, ht⟩ | ⟨rest, -, ht⟩ | ⟨w, rest, -, ht⟩ | ⟨c, d, rest, -, rfl⟩ | ⟨rest, -, rfl⟩ := step_next h
  · exact (engineTurn_clkPort_of_follow hf ht).trans hport
  · exact (engineTurn_clkPort_of_follow (s := { s with sched := rest }) hf ht).trans hport
  · exact (hostTurn_clkPort ht).trans hport
  · exact hport
  · rfl

/-! ### The other steps of the micro-programs -/

/-- What the effect of a micro-operation that goes on never writes: the sequencer, the count, the response, the latch and the
configuration. -/
structure SameSequencer (s t : State) : Prop where
  busy : t.busy = s.busy
  cstep : t.cstep = s.cstep
  xstep : t.xstep = s.xstep
  cnt : t.cnt = s.cnt
  rspValid : t.rspValid = s.rspValid
  result : t.result = s.result
  dol : t.dol = s.dol
  cfg : t.cfg = s.cfg

theorem MicroOp.effect_sequencer (op : MicroOp) (s : State) : SameSequencer s (op.effect s) := by
  cases op with
  | set x => cases x <;> exact ⟨rfl, rfl, rfl, rfl, rfl, rfl, rfl, rfl⟩
  | _ => exact ⟨rfl, rfl, rfl, rfl, rfl, rfl, rfl, rfl⟩

section
variable {i : Instr} {s u : State} {op : MicroOp} {c : BitVec 4}

theorem exec_moved (hbusy : s.busy = true) (hc : s.cstep = c) (hop : (programOf i)[c.toNat]? = some op)
    (hu : op.run s = .moved u) : exec i s = .next (lineUpdate u) := by
  subst hc
  exact (exec_busy hbusy).trans (engineStep_moved hop hu)

/-- A step that goes on: its effect, and the next value of CSTEP. -/
theorem exec_advance (hbusy : s.busy = true) (hc : s.cstep = c) (hop : (programOf i)[c.toNat]? = some op)
    (hu : op.run s = .moved (advance (op.effect s))) :
    exec i s = .next (lineUpdate { op.effect s with cstep := c + 1#4 }) := by
  rw [exec_moved hbusy hc hop hu, advance, (op.effect_sequencer s).cstep, hc]

theorem exec_clkRel (hbusy : s.busy = true) (hf : s.follows = false) (hc : s.cstep = c)
    (hop : (programOf i)[c.toNat]? = some .clkRel) :
    exec i s = .next (lineUpdate { s with clkPort := true, cstep := c + 1#4 }) := by
  rw [exec_advance hbusy hc hop rfl, MicroOp.effect, clkRel_of_drive hf]

theorem exec_clkLow (hbusy : s.busy = true) (hf : s.follows = false) (hc : s.cstep = c)
    (hop : (programOf i)[c.toNat]? = some .clkLow) :
    exec i s = .next (lineUpdate { s with clkPort := false, cstep := c + 1#4 }) := by
  rw [exec_advance hbusy hc hop rfl, MicroOp.effect, clkLow_of_drive hf]

theorem exec_waitSclHigh (hbusy : s.busy = true) (hscl : s.sclObs = true) (hc : s.cstep = c)
    (hop : (programOf i)[c.toNat]? = some .waitSclHigh) :
    exec i s = .next (lineUpdate { s with cstep := c + 1#4 }) :=
  exec_advance hbusy hc hop (if_pos hscl)

theorem exec_waitStartDet (hbusy : s.busy = true) (hdet : s.startDet = true) (hc : s.cstep = c)
    (hop : (programOf i)[c.toNat]? = some .waitStartDet) :
    exec i s = .next (lineUpdate { s with cstep := c + 1#4 }) :=
  exec_advance hbusy hc hop (if_pos hdet)

theorem exec_checkStart_passes {fail : ActionList} (hbusy : s.busy = true) (hdet : s.startDet = true) (hc : s.cstep = c)
    (hop : (programOf i)[c.toNat]? = some (.checkStart fail)) :
    exec i s = .next (lineUpdate { s with cstep := c + 1#4 }) := by
  subst hc
  exact exec_moved hbusy rfl hop (by rw [MicroOp.run, if_pos hdet]; rfl)

theorem exec_checkStart_fails {fail : ActionList} (hbusy : s.busy = true) (hdet : s.startDet = false) (hc : s.cstep = c)
    (hop : (programOf i)[c.toNat]? = some (.checkStart fail)) :
    exec i s = .next (lineUpdate (fail.run s)) :=
  exec_moved hbusy hc hop (by rw [MicroOp.run, if_neg (by simp [hdet])])

theorem exec_thenDo {cond : Cond} {a b : ActionList} (hbusy : s.busy = true) (hcond : cond.eval s = true)
    (hc : s.cstep = c) (hop : (programOf i)[c.toNat]? = some (.ifThenElse cond a b)) :
    exec i s = .next (lineUpdate (a.run s)) :=
  exec_moved hbusy hc hop (by rw [MicroOp.run, if_pos hcond])

theorem exec_elseDo {cond : Cond} {a b : ActionList} (hbusy : s.busy = true) (hcond : cond.eval s = false)
    (hc : s.cstep = c) (hop : (programOf i)[c.toNat]? = some (.ifThenElse cond a b)) :
    exec i s = .next (lineUpdate (b.run s)) :=
  exec_moved hbusy hc hop (by rw [MicroOp.run, if_neg (by simp [hcond])])

/-- The branch on the frame's ACK bit (R152 step 14, R153 step 13). -/
theorem exec_frameAcked (hbusy : s.busy = true) (hc : s.cstep = c) (hop : (programOf i)[c.toNat]? = some frameAcked) :
    exec i s = .next (lineUpdate { s with
      cstate := if s.tmp.getLsbD 0 then .waitStop else .data
      result := if s.tmp.getLsbD 0 then .nack else .ok
      rspValid := true, busy := false, cstep := 0#4, xstep := 0#4 }) := by
  cases hb : s.tmp.getLsbD 0
  · exact exec_elseDo (cond := .sampledNack) hbusy hb hc hop
  · exact exec_thenDo (cond := .sampledNack) hbusy hb hc hop

end

theorem apply_setC_guarded (s : State) (c d : CState) :
    GuardedSetting.apply s { guard := some (.cstateIs c), setting := .setC d } =
      { s with cstate := if s.cstate = c then d else s.cstate } := by
  by_cases h : s.cstate = c <;> simp [GuardedSetting.apply, Cond.eval, Setting.apply, setC, h]

theorem apply_setP_guarded (s : State) (p q : PState) :
    GuardedSetting.apply s { guard := some (.pstateIs p), setting := .setP q } =
      { s with pstate := if s.pstate = p then q else s.pstate } := by
  by_cases h : s.pstate = p <;> simp [GuardedSetting.apply, Cond.eval, Setting.apply, setP, h]

theorem follows_of_controller {s : State} (h : s.cfg.role = .controller) : s.follows = false := by
  simp [State.follows, h]

/-- Settles O22: in FOLLOW mode the two counted edges leave CLK_PORT alone, and so does every other step. -/
theorem followTransferSteps : Obligations.FollowTransferSteps := by
  unfold Obligations.FollowTransferSteps
  refine ⟨fun i n s hbusy hxfer hf => ?_, fun d s hbusy hf hc => ?_, fun s t hinv hf h => ?_⟩
  · have hmoved {u : State} := exec_xfer_moved (u := u) hbusy hxfer
    exact ⟨fun h => hmoved (transferStep_X0 h), fun h => hmoved (transferStep_X1 h),
      fun h hscl => exec_xfer_holds hbusy hxfer (transferStep_X2_holds h hf hscl),
      fun h hscl => hmoved (transferStep_X2_follow h hf hscl), fun h hscl => hmoved (transferStep_X3 h hscl),
      fun h hscl => exec_xfer_holds hbusy hxfer (transferStep_X3_holds h hscl),
      fun h => hmoved (transferStep_X4_follow h hf), fun h => hmoved (transferStep_X5 h),
      fun h => hmoved (transferStep_X6 h), fun h => hmoved (transferStep_X7 h), fun h => hmoved (transferStep_X8 h)⟩
  · rw [exec_advance hbusy hc rfl rfl, MicroOp.effect, clkLow_of_follow hf]
    rfl
  · exact step_clkPort_of_follow hf (hinv.followReleases hf) h

/-- Settles O27, step by step. -/
theorem cStartSteps : Obligations.CStartSteps := by
  unfold Obligations.CStartSteps
  intro f a s hbusy hrole
  have hf := follows_of_controller hrole
  exact ⟨fun hc => exec_advance (op := .set (.setC .start)) hbusy hc rfl rfl, fun hc => exec_clkRel hbusy hf hc rfl,
    fun hc hscl => exec_waitSclHigh hbusy hscl hc rfl, fun hc => exec_advance (op := .datLow) hbusy hc rfl rfl,
    fun hc => exec_clkLow hbusy hf hc rfl, fun hc => exec_advance (op := .datRel) hbusy hc rfl rfl,
    fun hc hdet => exec_checkStart_passes hbusy hdet hc rfl,
    fun hc hdet => exec_checkStart_fails (fail := startFailed) hbusy hdet hc rfl, fun hc => exec_clkLow hbusy hf hc rfl,
    fun hc => exec_advance (op := .set (.setC .address)) hbusy hc rfl rfl,
    fun hc => exec_advance (op := .set (.setDir f)) hbusy hc rfl rfl,
    fun hc => exec_advance (op := .loadSr (frame a f)) hbusy hc rfl rfl,
    fun hc => exec_advance (op := .datIn) hbusy hc rfl rfl, fun hc => exec_frameAcked hbusy hc rfl⟩

/-- Settles O28, step by step. -/
theorem cRstartSteps : Obligations.CRstartSteps := by
  unfold Obligations.CRstartSteps
  intro f a s hbusy hrole
  have hf := follows_of_controller hrole
  exact ⟨fun hc => exec_advance (op := .set (.setC .start)) hbusy hc rfl rfl, fun hc => exec_clkRel hbusy hf hc rfl,
    fun hc hscl => exec_waitSclHigh hbusy hscl hc rfl, fun hc => exec_clkLow hbusy hf hc rfl,
    fun hc => exec_advance (op := .datRel) hbusy hc rfl rfl, fun hc hdet => exec_checkStart_passes hbusy hdet hc rfl,
    fun hc hdet => exec_checkStart_fails (fail := startFailed) hbusy hdet hc rfl,
    fun hc => exec_clkLow hbusy hf hc rfl, fun hc => exec_advance (op := .set (.setC .address)) hbusy hc rfl rfl,
    fun hc => exec_advance (op := .set (.setDir f)) hbusy hc rfl rfl,
    fun hc => exec_advance (op := .loadSr (frame a f)) hbusy hc rfl rfl,
    fun hc => exec_advance (op := .datIn) hbusy hc rfl rfl, fun hc => exec_frameAcked hbusy hc rfl⟩

/-- C_WRITE's branch on the ACK bit (R154 step 5). -/
theorem exec_cWrite_branch {d : Byte} {s : State} (hbusy : s.busy = true) (hc : s.cstep = 5#4) :
    exec (.cWrite d) s = .next (lineUpdate { s with
      cstate := if s.tmp.getLsbD 0 ∧ s.cstate = .data then .waitStop else s.cstate
      result := if s.tmp.getLsbD 0 then .nack else .ok
      rspValid := true, busy := false, cstep := 0#4, xstep := 0#4 }) := by
  cases hb : s.tmp.getLsbD 0
  · rw [exec_elseDo (cond := .sampledNack) hbusy hb hc rfl]
    simp [ActionList.run, finish]
  · rw [exec_thenDo (cond := .sampledNack) hbusy hb hc rfl]
    simp [ActionList.run, finish, apply_setC_guarded]

/-- P_WRITE's branch on the ACK bit (R185 step 5). -/
theorem exec_pWrite_branch {d : Byte} {s : State} (hbusy : s.busy = true) (hc : s.cstep = 5#4) :
    exec (.pWrite d) s = .next (lineUpdate { s with
      pstate := if s.tmp.getLsbD 0 ∧ s.pstate = .dataExchange then .waitStart else s.pstate
      result := if s.tmp.getLsbD 0 then .nack else .ok
      rspValid := true, busy := false, cstep := 0#4, xstep := 0#4 }) := by
  cases hb : s.tmp.getLsbD 0
  · rw [exec_elseDo (cond := .sampledNack) hbusy hb hc rfl]
    simp [ActionList.run, finish]
  · rw [exec_thenDo (cond := .sampledNack) hbusy hb hc rfl]
    simp [ActionList.run, finish, apply_setP_guarded]

/-- Settles O29, step by step. -/
theorem cWriteSteps : Obligations.CWriteSteps := by
  unfold Obligations.CWriteSteps
  intro d s hbusy hrole
  exact ⟨fun hc => exec_clkLow hbusy (follows_of_controller hrole) hc rfl,
    fun hc => exec_advance (op := .loadSr d) hbusy hc rfl rfl, fun hc => exec_advance (op := .datIn) hbusy hc rfl rfl,
    exec_cWrite_branch hbusy⟩

/-- Settles O30, step by step. -/
theorem cReadSteps : Obligations.CReadSteps := by
  unfold Obligations.CReadSteps
  intro more s hbusy _
  refine ⟨fun hc => exec_advance (op := .datIn) hbusy hc rfl rfl,
    fun hc => exec_advance (op := .saveRdata) hbusy hc rfl rfl,
    fun hc => exec_advance (op := .loadSr (readPattern more)) hbusy hc rfl rfl, fun hc => ?_⟩
  cases more
  · rw [exec_thenDo hbusy rfl hc rfl]
    simp [ActionList.run, finish, apply_setC_guarded]
  · rw [exec_elseDo hbusy rfl hc rfl]
    simp [ActionList.run, finish]

/-- Settles O31, step by step. -/
theorem cStopSteps : Obligations.CStopSteps := by
  unfold Obligations.CStopSteps
  intro s hbusy hrole
  exact ⟨fun hc => exec_advance (op := .set (.setC .stop)) hbusy hc rfl rfl,
    fun hc => exec_advance (op := .datLow) hbusy hc rfl rfl,
    fun hc => exec_clkRel hbusy (follows_of_controller hrole) hc rfl,
    fun hc hscl => exec_waitSclHigh hbusy hscl hc rfl, fun hc => exec_advance (op := .datRel) hbusy hc rfl rfl,
    fun hc => exec_advance (op := .delay .tStop) hbusy hc rfl rfl,
    fun hc => exec_advance (op := .set (.setC .idle)) hbusy hc rfl rfl, fun hc => exec_moved hbusy hc rfl rfl⟩

/-- Settles O32, step by step. -/
theorem pStartSteps : Obligations.PStartSteps := by
  unfold Obligations.PStartSteps
  intro own s hbusy
  refine ⟨fun hc => exec_advance (op := .set (.setP .waitStart)) hbusy hc rfl rfl,
    fun hc hdet => exec_waitStartDet hbusy hdet hc rfl,
    fun hc => exec_advance (op := .set (.setP .matchAddress)) hbusy hc rfl rfl,
    fun hc => exec_advance (op := .datIn) hbusy hc rfl rfl, fun hc => exec_advance (op := .saveRdata) hbusy hc rfl rfl,
    fun hc hmatch => ?_, fun hc hmatch => ?_,
    fun hc => exec_advance (op := .loadSr ackPattern) hbusy hc rfl rfl,
    fun hc => exec_advance (op := .set (.setP .dataExchange)) hbusy hc rfl rfl,
    fun hc => exec_moved hbusy hc rfl rfl⟩
  · have hnext : s.cstep + 1#4 = 7#4 := by rw [hc]; rfl
    rw [exec_thenDo (cond := .matchesOwn own) hbusy hmatch hc rfl, ← hnext]
    rfl
  · rw [exec_elseDo (cond := .matchesOwn own) hbusy hmatch hc rfl]
    rfl

/-- Settles O33, step by step. -/
theorem pReadSteps : Obligations.PReadSteps := by
  unfold Obligations.PReadSteps
  intro s hbusy
  exact ⟨fun hc => exec_advance (op := .datIn) hbusy hc rfl rfl,
    fun hc => exec_advance (op := .saveRdata) hbusy hc rfl rfl,
    fun hc => exec_advance (op := .loadSr ackPattern) hbusy hc rfl rfl, fun hc => exec_moved hbusy hc rfl rfl⟩

/-- Settles O34, step by step. -/
theorem pWriteSteps : Obligations.PWriteSteps := by
  unfold Obligations.PWriteSteps
  intro d s hbusy
  exact ⟨fun hc hf => exec_clkLow hbusy hf hc rfl, fun hc => exec_advance (op := .loadSr d) hbusy hc rfl rfl,
    fun hc => exec_advance (op := .datIn) hbusy hc rfl rfl, exec_pWrite_branch hbusy⟩

/-! ### Results -/

/-- `t` is `s` but for the bookkeeping of R116: CSTATE, PSTATE and XDIR. -/
def OnlyBookkeeping (s t : State) : Prop :=
  ∃ c p x, t = { s with cstate := c, pstate := p, xdir := x }

theorem Setting.apply_only (x : Setting) (s : State) : OnlyBookkeeping s (x.apply s) := by
  cases x <;> exact ⟨_, _, _, rfl⟩

theorem GuardedSetting.apply_only (g : GuardedSetting) (s : State) : OnlyBookkeeping s (g.apply s) := by
  unfold GuardedSetting.apply
  split
  · exact g.setting.apply_only s
  · split
    · exact g.setting.apply_only s
    · exact ⟨_, _, _, rfl⟩

theorem settings_only (l : List GuardedSetting) (s : State) : OnlyBookkeeping s (l.foldl GuardedSetting.apply s) := by
  induction l generalizing s with
  | nil => exact ⟨_, _, _, rfl⟩
  | cons g l ih =>
    obtain ⟨c, p, x, hg⟩ := g.apply_only s
    obtain ⟨c', p', x', hl⟩ := ih (g.apply s)
    refine ⟨c', p', x', ?_⟩
    rw [List.foldl_cons, hl, hg]

theorem transferStep_busy {n : XferCount} {s t : State} (h : transferStep n s = .moved t) : t.busy = s.busy := by
  rcases transferStep_moved h with
    ⟨-, rfl⟩ | ⟨-, rfl⟩ | ⟨-, -, rfl⟩ | ⟨-, -, -, rfl⟩ | ⟨-, -, rfl⟩ | ⟨-, rfl⟩ | ⟨-, rfl⟩ | ⟨-, rfl⟩ | ⟨-, rfl⟩ | ⟨-, rfl⟩
  all_goals rfl

/-- `finish` is the one way a micro-operation makes the block idle (R117, R211). -/
theorem MicroOp.run_ends {op : MicroOp} {s u : State} (h : op.run s = .moved u) (hbusy : s.busy = true)
    (hidle : u.busy = false) :
    ∃ l ∈ op.lists, ∃ code, l.ending = some code ∧ u = Machine.finish code (l.settings.foldl GuardedSetting.apply s) := by
  have hne : u.busy ≠ s.busy := by simp [hbusy, hidle]
  obtain ⟨n, rfl, h⟩ | ⟨l, hl, rfl⟩ | ⟨rfl, -⟩ := MicroOp.run_moved h
  · exact absurd (transferStep_busy h) hne
  · obtain ⟨code, hcode, hrun⟩ | ⟨-, hrun⟩ := l.run_ending s
    · exact ⟨l, hl, code, hcode, hrun⟩
    · obtain ⟨c, p, x, hset⟩ := settings_only l.settings s
      exact absurd (by rw [hrun, hset]; rfl) hne
  · exact absurd (op.effect_sequencer s).busy hne

/-- The codes of the `finish` actions of a micro-program (R201, R211). -/
theorem program_ending {i : Instr} {op : MicroOp} {l : ActionList} {code : ResultCode} (hop : op ∈ programOf i)
    (hl : l ∈ op.lists) (hcode : l.ending = some code) : code ∈ resultsOf i := by
  have hall : ∀ op ∈ programOf i, ∀ l ∈ op.lists, ∀ code, l.ending = some code → code ∈ resultsOf i := by
    cases i <;>
      simp [programOf, cStartProgram, cRstartProgram, cWriteProgram, cReadProgram, cStopProgram, pStartProgram,
        pReadProgram, pWriteProgram, frameAcked, startFailed, MicroOp.lists, resultsOf]
  exact hall op hop l hl code hcode

/-- A command that ends by its own step reports one of its codes (R117, R201). -/
theorem exec_ends {i : Instr} {s t : State} (hbusy : s.busy = true) (h : exec i s = .next t) (hidle : t.busy = false) :
    t.rspValid = true ∧ t.cstep = 0#4 ∧ t.xstep = 0#4 ∧ t.result ∈ resultsOf i := by
  rw [exec_busy hbusy] at h
  obtain ⟨op, hop, ⟨-, rfl⟩ | ⟨u, hu, rfl⟩⟩ := engineStep_next h
  · rw [hbusy] at hidle
    cases hidle
  · obtain ⟨l, hl, code, hcode, rfl⟩ := MicroOp.run_ends hu hbusy hidle
    exact ⟨rfl, rfl, rfl, program_ending (List.mem_of_getElem? hop) hl hcode⟩

theorem step_runs {i : Instr} {s : State} (hruns : s.runs i) (hengine : s.engineActs) :
    step s = exec i { s with sched := s.sched.tail } := by
  rw [step_engineActs hengine]
  exact engineTurn_runs hruns

/-- Settles O38: only ENGINE and RESET can make a busy block idle, and ENGINE does it by a `finish` of the command. -/
theorem commandResults : Obligations.CommandResults := by
  unfold Obligations.CommandResults
  refine ⟨fun s t hbusy h hidle => ?_, fun i s t hruns hengine h hidle => ?_⟩
  · have hne : t.busy ≠ s.busy := by simp [hbusy, hidle]
    obtain ⟨hs, -⟩ | ⟨rest, hs, -⟩ | ⟨w, rest, -, ht⟩ | ⟨c, d, rest, -, rfl⟩ | ⟨rest, hs, -⟩ := step_next h
    · exact .inl (.inl (by simp [hs]))
    · exact .inl (.inr (by simp [hs]))
    · cases (hostTurn_busy (s := { s with sched := rest }) hbusy).symm.trans ht
      exact absurd rfl hne
    · exact absurd rfl hne
    · exact .inr ⟨rest, hs⟩
  · rw [step_runs hruns hengine] at h
    exact exec_ends (s := { s with sched := s.sched.tail }) hruns.1 h hidle

/-- Settles O36: the branch on the ACK bit writes no port. -/
theorem nackResult : Obligations.NackResult := by
  unfold Obligations.NackResult
  rintro i s t hbusy h (⟨f, a, rfl, hc⟩ | ⟨f, a, rfl, hc⟩ | ⟨d, rfl, hc⟩ | ⟨d, rfl, hc⟩)
  · cases (exec_frameAcked (i := .cStart f a) hbusy hc rfl).symm.trans h
    exact ⟨rfl, rfl, rfl, rfl, rfl, rfl⟩
  · cases (exec_frameAcked (i := .cRstart f a) hbusy hc rfl).symm.trans h
    exact ⟨rfl, rfl, rfl, rfl, rfl, rfl⟩
  · cases (exec_cWrite_branch hbusy hc).symm.trans h
    exact ⟨rfl, rfl, rfl, rfl, rfl, rfl⟩
  · cases (exec_pWrite_branch hbusy hc).symm.trans h
    exact ⟨rfl, rfl, rfl, rfl, rfl, rfl⟩

/-! ### Holds are states without progress -/

/-- A step that is taken ends the command or moves CSTEP or XSTEP. -/
theorem MicroOp.run_progress {op : MicroOp} {s u : State} (h : op.run s = .moved u) :
    u.busy = false ∨ u.cstep ≠ s.cstep ∨ u.xstep ≠ s.xstep := by
  have hnext : ∀ x : BitVec 4, x + 1#4 ≠ x := by decide
  obtain ⟨n, rfl, h⟩ | ⟨l, hl, rfl⟩ | ⟨rfl, -⟩ := MicroOp.run_moved h
  · rcases transferStep_moved h with
      ⟨-, rfl⟩ | ⟨-, rfl⟩ | ⟨-, -, rfl⟩ | ⟨-, -, -, rfl⟩ | ⟨-, -, rfl⟩ | ⟨-, rfl⟩ | ⟨hx, rfl⟩ | ⟨-, rfl⟩ | ⟨-, rfl⟩ |
      ⟨-, rfl⟩
    case inr.inr.inr.inr.inr.inr.inl =>
      have hx5 : s.xstep = 5#4 := BitVec.eq_of_toNat_eq hx
      cases hovf : s.ovf <;> simp [loopTest, hx5, hovf]
    case inr.inr.inr.inr.inr.inr.inr.inr.inr => exact .inr (.inl (hnext _))
    all_goals exact .inr (.inr (hnext _))
  · obtain ⟨code, -, hrun⟩ | ⟨-, hrun⟩ := l.run_ending s <;> rw [hrun]
    · exact .inl rfl
    · obtain ⟨c, p, x, hset⟩ := settings_only l.settings s
      rw [hset]
      exact .inr (.inl (hnext _))
  · have hc : (advance (op.effect s)).cstep = s.cstep + 1#4 := by rw [advance, (op.effect_sequencer s).cstep]
    rw [hc]
    exact .inr (.inl (hnext _))

/-- The engine's step leaves the state as it is exactly where the micro-operation holds (R105, R207). -/
theorem exec_eq_self_iff {i : Instr} {s : State} (hruns : s.runs i) :
    exec i s = .next s ↔ holdPoint i s ∨ followHold i s := by
  rw [held_iff_run_holds, exec_busy hruns.1]
  constructor
  · intro h
    obtain ⟨op, hop, ⟨hholds, -⟩ | ⟨u, hu, hsu⟩⟩ := engineStep_next h
    · exact ⟨op, hop, hholds⟩
    · have hbusy : u.busy = s.busy := by rw [hsu]; rfl
      have hcstep : u.cstep = s.cstep := by rw [hsu]; rfl
      have hxstep : u.xstep = s.xstep := by rw [hsu]; rfl
      simpa [hbusy, hruns.1, hcstep, hxstep] using MicroOp.run_progress hu
  · rintro ⟨op, hop, hholds⟩
    exact engineStep_holds hop hholds

theorem step_sched_nil (s : State) : step { s with sched := [] } = engineTurn { s with sched := [] } := rfl

theorem step_sched_cons (s : State) (e : Event) (l : List Event) :
    step { s with sched := e :: l } = turn e { s with sched := l } := rfl

/-- At a hold the turns of ENGINE and HOST pass without effect, however many there are (R207). -/
theorem run_held {i : Instr} {s : State} (hruns : s.runs i) (hheld : holdPoint i s ∨ followHold i s) (k : Nat)
    (l : List Event) (hl : ∀ e ∈ l, e = .engine ∨ ∃ w, e = .host w) :
    Host.Core.run core k { s with sched := l } = .next { s with sched := l.drop k } := by
  have hengine (l : List Event) : engineTurn { s with sched := l } = .next { s with sched := l } :=
    engineTurn_held (i := i) (s := { s with sched := l }) hruns hheld
  induction k generalizing l with
  | zero => rfl
  | succ k ih =>
    cases l with
    | nil =>
      rw [run_succ_next ((step_sched_nil s).trans (hengine [])), ih [] nofun, List.drop_nil, List.drop_nil]
    | cons e l =>
      have hstep : step { s with sched := e :: l } = .next { s with sched := l } := by
        obtain rfl | ⟨w, rfl⟩ := hl e (List.mem_cons_self)
        · exact (step_sched_cons s .engine l).trans (hengine l)
        · exact (step_sched_cons s (.host w) l).trans (hostTurn_busy hruns.1)
      exact (run_succ_next hstep).trans (ih l fun e he => hl e (List.mem_cons_of_mem _ he))

/-- Settles O18: a micro-operation that does not hold makes progress, and at a hold neither ENGINE nor HOST has a step. -/
theorem holdsAndHangs : Obligations.HoldsAndHangs := by
  unfold Obligations.HoldsAndHangs
  intro i s _ hruns
  exact ⟨exec_eq_self_iff hruns, run_held hruns⟩

end Sys2Proof.Machine
end

section
namespace Sys2Proof.Machine

/-! ### DRIVE mode's deadlock -/

/-- P_START waits for START_DET while the block pulls the clock (R188, R238). -/
structure Deadlocked (own : Addr) (s : State) : Prop where
  runs : s.runs (.pStart own)
  waits : s.cstep = 1#4
  clockOutput : s.clkDir = true
  clockPulled : s.clkPort = false
  noStart : s.startDet = false
  clockLow : s.sclObs = false

theorem Deadlocked.held {own : Addr} {s : State} (h : Deadlocked own s) :
    holdPoint (.pStart own) s ∨ followHold (.pStart own) s :=
  .inl (holdPoint_iff.mpr (.inl ⟨⟨⟨own, rfl⟩, by simp [h.waits]⟩, h.noStart⟩))

/-- With the clock pulled the line update can see no start, so no turn but RESET's ends the wait. -/
theorem Deadlocked.turn {own : Addr} {s : State} {e : Event} (h : Deadlocked own s) (he : e ≠ .reset) :
    ∃ t, turn e s = .next t ∧ t.sched = s.sched ∧ Deadlocked own t := by
  cases e with
  | engine => exact ⟨s, engineTurn_held h.runs h.held, rfl, h⟩
  | host w => exact ⟨s, hostTurn_busy h.runs.1, rfl, h⟩
  | peer c d =>
    obtain ⟨hscl, -, hdet⟩ := lineUpdate_clock_low (s := setPeer c d s) h.clockOutput h.clockPulled
    exact ⟨_, rfl, rfl, h.runs, h.waits, h.clockOutput, h.clockPulled, hdet.trans h.noStart, hscl⟩
  | reset => exact absurd rfl he

theorem Deadlocked.sched {own : Addr} {s : State} (h : Deadlocked own s) (l : List Event) :
    Deadlocked own { s with sched := l } :=
  ⟨h.runs, h.waits, h.clockOutput, h.clockPulled, h.noStart, h.clockLow⟩

theorem Deadlocked.run {own : Addr} {s : State} (h : Deadlocked own s) (k : Nat) (hl : ∀ e ∈ s.sched, e ≠ .reset) :
    ∃ t, Host.Core.run core k s = .next t ∧ Deadlocked own t := by
  induction k generalizing s with
  | zero => exact ⟨s, rfl, h⟩
  | succ k ih =>
    have hnext : ∃ u, step s = .next u ∧ u.sched = s.sched.tail ∧ Deadlocked own u := by
      cases hs : s.sched with
      | nil => exact ⟨s, (step_nil hs).trans (engineTurn_held h.runs h.held), hs, h⟩
      | cons e rest =>
        obtain ⟨u, hu, hsched, hdead⟩ := (h.sched rest).turn (hl e (by simp [hs]))
        exact ⟨u, (step_cons hs).trans hu, hsched, hdead⟩
    obtain ⟨u, hu, hsched, hdead⟩ := hnext
    rw [run_succ_next hu]
    exact ih hdead fun e he => hl e (List.mem_of_mem_tail (hsched ▸ he))

/-- Settles O20: the invariant gives the low clock, and `Deadlocked` is kept by every turn but RESET's. -/
theorem driveModeDeadlock : Obligations.DriveModeDeadlock := by
  unfold Obligations.DriveModeDeadlock
  intro own s hinv hruns hc _ hport hdet k l hl
  have hscl : s.sclObs = false := by
    obtain ⟨hscl, -, -⟩ := hinv.settled
    simp [hscl, State.ownScl, hinv.clockOutput, hport]
  have hdead : Deadlocked own s := ⟨hruns, hc, hinv.clockOutput, hport, hdet, hscl⟩
  obtain ⟨t, ht, hdead'⟩ := (hdead.sched l).run k hl
  exact ⟨t, ht, hdead'.runs, hdead'.waits, hdead'.noStart, hdead'.clockLow⟩

/-! ### The invariant where the block's registers are kept -/

/-- `t` differs from `s` at most in what the environment and the line model write: the schedule, the peer's drives, the
observed levels, START_DET, and the latch, which stays released where the pattern is. -/
structure SameRegisters (s t : State) : Prop where
  eq : t = { s with
    sched := t.sched, envScl := t.envScl, envSda := t.envSda, sclObs := t.sclObs, sdaObs := t.sdaObs
    startDet := t.startDet, dol := t.dol }
  latch : s.sr = 0xFF#8 → s.dol = true → t.dol = true

theorem SameRegisters.transferForm {n : XferCount} {s t : State} (k : SameRegisters s t) (h : TransferForm n s) :
    TransferForm n t := by
  rw [k.eq]
  exact ⟨h.xstepRange, h.fresh, h.beforeRise, h.beforeFall, h.atTest, h.done, h.length, h.clockHigh, h.clockLow,
    fun hx => ⟨(h.released hx).1, fun hf => k.latch (h.released hx).1 ((h.released hx).2 hf)⟩⟩

theorem SameRegisters.outsideTransfer {s t : State} (k : SameRegisters s t) (h : OutsideTransfer s) :
    OutsideTransfer t := by
  rw [k.eq]
  exact ⟨h.xstepZero, h.countZero, h.dataOutput, h.patternReleased,
    fun hf => k.latch h.patternReleased (h.latchReleased hf)⟩

theorem SameRegisters.busyForm {i : Instr} {s t : State} (k : SameRegisters s t) (h : BusyForm i s) : BusyForm i t := by
  have htransfer (n : XferCount) (hn : xferAt i s.cstep.toNat = some n) := k.transferForm (h.transfer n hn)
  have houtside (hn : xferAt i s.cstep.toNat = none) := k.outsideTransfer (h.noTransfer hn)
  rw [k.eq] at htransfer houtside ⊢
  exact ⟨h.noResponse, h.cstepRange, htransfer, houtside, h.dataPort, h.clockLow, h.cstateSet, h.cstateKept,
    h.pstateSet, h.pstateKept⟩

theorem SameRegisters.idleForm {s t : State} (k : SameRegisters s t) (h : IdleForm s) : IdleForm t := by
  have houtside := k.outsideTransfer h.outside
  rw [k.eq] at houtside ⊢
  exact ⟨h.cstepZero, houtside, h.dataReleased, h.cstateBetween, h.pstateBetween, h.clockHeldLow⟩

theorem SameRegisters.inv {s t : State} (k : SameRegisters s t) (h : Inv s) (hsettled : t.linesSettled) : Inv t := by
  have hidle (hb : s.busy = false) := k.idleForm (h.idle hb)
  have hbusy (hb : s.busy = true) : ∃ i, decode s.cfg.role s.cmdr = .ok i ∧ BusyForm i t := by
    obtain ⟨i, hi, hform⟩ := h.busy hb
    exact ⟨i, hi, k.busyForm hform⟩
  rw [k.eq] at hsettled hidle hbusy ⊢
  exact ⟨hsettled, h.clockOutput, h.followReleases, h.illegalRecorded, hidle, hbusy⟩

/-- The line update keeps a released latch released (R101, R137). -/
theorem lineUpdate_dol_released {s : State} (hsr : s.sr = 0xFF#8) (hdol : s.dol = true) : (lineUpdate s).dol = true := by
  rw [lineUpdate_dol, hsr, hdol]
  cases (lineUpdate s).sclObs <;> rfl

theorem sameRegisters_lineUpdate (s : State) : SameRegisters s (lineUpdate s) :=
  ⟨rfl, lineUpdate_dol_released⟩

theorem sameRegisters_peer (c d : Bool) (s : State) : SameRegisters s (lineUpdate (setPeer c d s)) :=
  ⟨rfl, lineUpdate_dol_released (s := setPeer c d s)⟩

theorem Inv.sched {s : State} (h : Inv s) (l : List Event) : Inv { s with sched := l } :=
  SameRegisters.inv (s := s) ⟨rfl, fun _ hdol => hdol⟩ h h.settled

/-! ### The invariant after a reset and after an offer -/

theorem resetBlock_inv (s : State) : Inv (resetBlock s) where
  settled := resetBlock_settled s
  clockOutput := rfl
  followReleases := fun _ => rfl
  illegalRecorded := nofun
  idle := fun _ =>
    ⟨rfl, ⟨rfl, rfl, rfl, rfl, fun _ => rfl⟩, rfl, .inl rfl, .inl rfl, fun _ htrans => by
      cases hrole : s.cfg.role <;> simp [State.inTransaction, State.reset, hrole] at htrans⟩
  busy := nofun

/-- Settles O58: State.reset is what a reset step leaves of it. -/
theorem invariantAtReset : Obligations.InvariantAtReset := by
  unfold Obligations.InvariantAtReset
  exact ⟨resetBlock_inv State.reset, resetBlock_inv⟩

theorem refuseCommand_inv {w : Word} {s : State} (h : Inv s) (hidle : s.busy = false) : Inv (refuseCommand w s) where
  settled := h.settled
  clockOutput := h.clockOutput
  followReleases := h.followReleases
  illegalRecorded := fun _ => rfl
  idle := fun hb =>
    have k := h.idle hb
    ⟨k.cstepZero, ⟨k.outside.xstepZero, k.outside.countZero, k.outside.dataOutput, k.outside.patternReleased,
      k.outside.latchReleased⟩, k.dataReleased, k.cstateBetween, k.pstateBetween, k.clockHeldLow⟩
  busy := fun hb => absurd hb (by simp [hidle])

/-- No command's tables ask anything of its step 0 (R104). -/
theorem tables_zero (i : Instr) :
    0 < (programOf i).length ∧ xferAt i 0 = none ∧ dataForcedLow i 0 = false ∧ 0 < clockLowFrom i ∧
      cstateDuring i 0 = none ∧ pstateDuring i 0 = none := by
  cases i <;> exact ⟨Nat.zero_lt_succ _, rfl, rfl, Nat.zero_lt_succ _, rfl, rfl⟩

theorem acceptCommand_inv {i : Instr} {permitted : Bool} {s : State} (h : Inv s) (hidle : s.busy = false)
    (hi : decode s.cfg.role (encode i) = .ok i) : Inv (acceptCommand (encode i) permitted s) := by
  obtain ⟨hlength, hxfer, hforced, hclock, hcstate, hpstate⟩ := tables_zero i
  have k := h.idle hidle
  have houtside : OutsideTransfer (acceptCommand (encode i) permitted s) :=
    ⟨rfl, k.outside.countZero, k.outside.dataOutput, k.outside.patternReleased, k.outside.latchReleased⟩
  refine ⟨h.settled, h.clockOutput, h.followReleases, h.illegalRecorded, nofun, fun _ => ⟨i, hi, rfl, hlength,
    fun n hn => ?_, fun _ => houtside, k.dataReleased.trans ?_, fun _ hlow => absurd hclock (Nat.not_lt.mpr hlow),
    fun c hn => ?_, fun _ => k.cstateBetween, fun p hn => ?_, fun _ => k.pstateBetween⟩⟩
  · cases hxfer.symm.trans hn
  · exact congrArg Bool.not hforced.symm
  · cases hcstate.symm.trans hn
  · cases hpstate.symm.trans hn

theorem lineUpdate_inv {s : State} (h : Inv s) : Inv (lineUpdate s) :=
  (sameRegisters_lineUpdate s).inv h (lineUpdate_settled s)

/-- HOST's turn succeeds and keeps the invariant, whatever word it offers. -/
theorem hostTurn_keeps_inv {w : Word} {s : State} (h : Inv s) : ∃ t, hostTurn w s = .next t ∧ Inv t := by
  cases hb : s.busy with
  | true => exact ⟨s, hostTurn_busy hb, h⟩
  | false =>
    cases hw : decode s.cfg.role w with
    | ok i =>
      obtain ⟨-, rfl⟩ := encode_of_decode hw
      exact ⟨_, hostTurn_accepts hb hw, lineUpdate_inv (acceptCommand_inv h hb hw)⟩
    | error e => exact ⟨_, hostTurn_refuses hb hw, lineUpdate_inv (refuseCommand_inv h hb)⟩

end Sys2Proof.Machine
end

section
namespace Sys2Proof.Machine

/-! ### The tables of the invariant, checked against the micro-programs step by step -/

/-- The controller state a micro-operation sets (R116). -/
def MicroOp.cstateSet : MicroOp → Option CState
  | .set (.setC c) => some c
  | _ => none

/-- The peripheral state a micro-operation sets (R116). -/
def MicroOp.pstateSet : MicroOp → Option PState
  | .set (.setP p) => some p
  | _ => none

/-- The level a micro-operation gives DAT_PORT (R108, R109). -/
def MicroOp.datPortSet : MicroOp → Option Bool
  | .datLow => some false
  | .datRel => some true
  | _ => none

/-- The level a micro-operation other than XFER gives CLK_PORT where the block drives the clock (R106, R107). -/
def MicroOp.clkPortSet : MicroOp → Option Bool
  | .clkRel => some true
  | .clkLow => some false
  | _ => none

theorem MicroOp.effect_cstate (op : MicroOp) (s : State) : (op.effect s).cstate = op.cstateSet.getD s.cstate := by
  cases op with
  | set x => cases x <;> rfl
  | _ => rfl

theorem MicroOp.effect_pstate (op : MicroOp) (s : State) : (op.effect s).pstate = op.pstateSet.getD s.pstate := by
  cases op with
  | set x => cases x <;> rfl
  | _ => rfl

theorem MicroOp.effect_datPort (op : MicroOp) (s : State) : (op.effect s).datPort = op.datPortSet.getD s.datPort := by
  cases op with
  | set x => cases x <;> rfl
  | _ => rfl

theorem MicroOp.effect_clkPort (op : MicroOp) {s : State} (hf : s.follows = false) :
    (op.effect s).clkPort = op.clkPortSet.getD s.clkPort := by
  cases op with
  | set x => cases x <;> rfl
  | clkRel | clkLow => simp [effect, clkPortSet, hf]
  | _ => rfl

theorem programOf_length_le (i : Instr) : (programOf i).length ≤ 15 := by
  cases i <;> exact of_decide_eq_true rfl

theorem program_lt {i : Instr} {c : Nat} {op : MicroOp} (hop : (programOf i)[c]? = some op) : c < 15 := by
  exact Nat.lt_of_lt_of_le (List.getElem?_eq_some_iff.mp hop).1 (programOf_length_le i)

/-- What the tables of the invariant say of the step after one that goes on, an XFER step's last included. -/
structure TableStep (i : Instr) (c : Nat) (op : MicroOp) : Prop where
  inside : c + 1 < (programOf i).length
  cstate : cstateDuring i (c + 1) = op.cstateSet.or (cstateDuring i c)
  pstate : pstateDuring i (c + 1) = op.pstateSet.or (pstateDuring i c)
  datPort : (!dataForcedLow i (c + 1)) = op.datPortSet.getD (!dataForcedLow i c)

theorem tableStep_of_goesOn {i : Instr} {c : Nat} {op : MicroOp} (hop : (programOf i)[c]? = some op)
    (hgo : op.goesOn = true) : TableStep i c op := by
  have hc := program_lt hop
  interval_cases c <;> cases i <;> cases hop <;> cases hgo <;> exact ⟨of_decide_eq_true rfl, rfl, rfl, rfl⟩

/-- No transfer follows another at once, and data is not forced low in one. -/
theorem tableStep_of_xfer {i : Instr} {c : Nat} {n : XferCount} (hop : (programOf i)[c]? = some (.xfer n)) :
    TableStep i c (.xfer n) ∧ xferAt i (c + 1) = none ∧ dataForcedLow i c = false := by
  have hc := program_lt hop
  interval_cases c <;> cases i <;> cases hop <;> exact ⟨⟨of_decide_eq_true rfl, rfl, rfl, rfl⟩, rfl, rfl⟩

/-- The clock is pulled from a CLK_LOW or a transfer on, and no CLK_REL comes after it (R107, R143); a LOAD_SR or a DAT_IN
stands right before a transfer. -/
theorem program_clock_and_pattern {i : Instr} {c : Nat} {op : MicroOp} (hop : (programOf i)[c]? = some op)
    (hgo : op.goesOn = true) :
    (clockLowFrom i ≤ c + 1 → op.clkPortSet = some false ∨ (op.clkPortSet = none ∧ clockLowFrom i ≤ c)) ∧
      (xferAt i (c + 1) = none → Reg.sr ∉ op.regs ∧ Reg.datDir ∉ op.regs) := by
  have hc := program_lt hop
  interval_cases c <;> cases i <;> cases hop <;> cases hgo <;>
    simp [clockLowFrom, MicroOp.clkPortSet, xferAt, MicroOp.regs, Setting.reg, ActionList.regs, startFailed]

/-- What the tables say of a step that can run an action list. -/
theorem tables_of_list {i : Instr} {c : Nat} {op : MicroOp} {l : ActionList} (hop : (programOf i)[c]? = some op) (hl : l ∈ op.lists) :
    xferAt i c = none ∧ dataForcedLow i c = false ∧ 
      (clockLowFrom i ≤ c ∨ (i = .cStop ∧ cstateDuring i c = some .idle ∧ l.settings = [])) := by
  have hc := program_lt hop
  interval_cases c <;> cases i <;> cases hop <;> simp [MicroOp.lists, frameAcked] at hl <;>
    exact ⟨rfl, rfl, by simp [clockLowFrom, cstateDuring, hl]⟩

/-- P_START's actions on a match (R183 step 6). -/
def pStartMatched : ActionList :=
  { settings := [{ guard := none, setting := .setP .ackAddress }, { guard := none, setting := .setDirTmp }]
    ending := none }

/-- P_START's match is the one action list that goes on. -/
theorem list_goesOn {i : Instr} {c : Nat} {op : MicroOp} {l : ActionList}
    (hop : (programOf i)[c]? = some op) (hl : l ∈ op.lists) (hnone : l.ending = none) :
    (∃ own, i = .pStart own) ∧ c = 6 ∧ l = pStartMatched := by
  have hc := program_lt hop
  have hall : ∀ l ∈ op.lists, l.ending = none → (∃ own, i = .pStart own) ∧ c = 6 ∧ l = pStartMatched := by
    interval_cases c <;> cases i <;> cases hop <;> simp [MicroOp.lists, frameAcked, startFailed, pStartMatched]
  exact hall l hl hnone

/-! ### The protocol states between and within commands (R150, R180) -/

/-- The controller state the invariant asks for: the one the tables name, or one held between commands. -/
def CState.Fits (during : Option CState) (c : CState) : Prop :=
  (∀ d, during = some d → c = d) ∧ (during = none → c.betweenCommands)

/-- The peripheral state the invariant asks for. -/
def PState.Fits (during : Option PState) (p : PState) : Prop :=
  (∀ q, during = some q → p = q) ∧ (during = none → p.betweenCommands)

theorem CState.Fits.set {during : Option CState} {c : CState} (h : c.Fits during) (new : Option CState) :
    (new.getD c).Fits (new.or during) := by
  cases new with
  | none => simpa using h
  | some d => exact ⟨fun e he => by simpa using he, nofun⟩

theorem PState.Fits.set {during : Option PState} {p : PState} (h : p.Fits during) (new : Option PState) :
    (new.getD p).Fits (new.or during) := by
  cases new with
  | none => simpa using h
  | some d => exact ⟨fun e he => by simpa using he, nofun⟩

theorem CState.betweenCommands_ite {p : Prop} [Decidable p] {c d : CState} (hc : c.betweenCommands)
    (hd : d.betweenCommands) : (if p then c else d).betweenCommands := by
  split
  · exact hc
  · exact hd

theorem PState.betweenCommands_ite {p : Prop} [Decidable p] {c d : PState} (hc : c.betweenCommands)
    (hd : d.betweenCommands) : (if p then c else d).betweenCommands := by
  split
  · exact hc
  · exact hd

/-- The action lists that end a command leave both protocol states as they are between commands. -/
theorem list_ends_between {i : Instr} {c : Nat} {s : State} {op : MicroOp} {l : ActionList} {code : ResultCode}
    (hop : (programOf i)[c]? = some op) (hl : l ∈ op.lists) (hcode : l.ending = some code)
    (hc : s.cstate.Fits (cstateDuring i c)) (hp : s.pstate.Fits (pstateDuring i c)) :
    (l.settings.foldl GuardedSetting.apply s).cstate.betweenCommands ∧
      (l.settings.foldl GuardedSetting.apply s).pstate.betweenCommands := by
  have hlt := program_lt hop
  obtain ⟨hcset, hckept⟩ := hc
  obtain ⟨hpset, hpkept⟩ := hp
  -- the commands in turn, and in each the steps that hold an action list
  cases i <;> interval_cases c <;> cases hop <;>
    simp only [MicroOp.lists, frameAcked, List.not_mem_nil, List.mem_cons, or_false] at hl
  · -- C_START's start check
    subst hl
    exact ⟨.inl rfl, hpkept rfl⟩
  · -- C_START's branch on the ACK bit
    obtain rfl | rfl := hl
    · exact ⟨.inr (.inr rfl), hpkept rfl⟩
    · exact ⟨.inr (.inl rfl), hpkept rfl⟩
  · -- C_RSTART's start check
    subst hl
    exact ⟨.inl rfl, hpkept rfl⟩
  · -- C_RSTART's branch on the ACK bit
    obtain rfl | rfl := hl
    · exact ⟨.inr (.inr rfl), hpkept rfl⟩
    · exact ⟨.inr (.inl rfl), hpkept rfl⟩
  · -- C_WRITE's branch on the ACK bit
    obtain rfl | rfl := hl
    · rw [List.foldl_cons, List.foldl_nil, apply_setC_guarded]
      exact ⟨CState.betweenCommands_ite (.inr (.inr rfl)) (hckept rfl), hpkept rfl⟩
    · exact ⟨hckept rfl, hpkept rfl⟩
  · -- C_READ's branch on `more`
    obtain rfl | rfl := hl
    · rw [List.foldl_cons, List.foldl_nil, apply_setC_guarded]
      exact ⟨CState.betweenCommands_ite (.inr (.inr rfl)) (hckept rfl), hpkept rfl⟩
    · exact ⟨hckept rfl, hpkept rfl⟩
  · -- C_STOP's end
    subst hl
    exact ⟨.inl (hcset _ rfl), hpkept rfl⟩
  · -- P_START's branch on the frame, which goes on where it matches
    obtain rfl | rfl := hl
    · cases hcode
    · exact ⟨hckept rfl, .inl rfl⟩
  · -- P_START's end
    subst hl
    exact ⟨hckept rfl, .inr (hpset _ rfl)⟩
  · -- P_READ's end
    subst hl
    exact ⟨hckept rfl, hpkept rfl⟩
  · -- P_WRITE's branch on the ACK bit
    obtain rfl | rfl := hl
    · rw [List.foldl_cons, List.foldl_nil, apply_setP_guarded]
      exact ⟨hckept rfl, PState.betweenCommands_ite (.inl rfl) (hpkept rfl)⟩
    · exact ⟨hckept rfl, hpkept rfl⟩

end Sys2Proof.Machine
end

section
namespace Sys2Proof.Machine

/-! ### The course of a transfer: its form by phase, and what each step makes of it -/

theorem State.follows_congr {s t : State} (h : t.cfg = s.cfg) : t.follows = s.follows := by
  rw [State.follows, State.follows, h]

section
variable {n : XferCount} {s u : State}

/-- Before X1 or X2: an even number of edges is left. -/
theorem transferForm_of_rise (hx : s.xstep.toNat = 1 ∨ s.xstep.toNat = 2) (hn : s.xn = isEight n)
    (h : s.ovf = false ∧ s.cnt.toNat % 2 = 0 ∧ 2 ≤ s.cnt.toNat ∧ s.cnt.toNat ≤ 2 * bitsOf n) : TransferForm n s :=
  ⟨by omega, fun _ => by omega, fun _ => h, fun _ => by omega, fun _ => by omega, fun _ => by omega, fun _ => hn,
    fun _ _ => by omega, fun _ _ => by omega, fun _ => by omega⟩

/-- Before X3 or X4: the rising edge is counted, the falling one is not. -/
theorem transferForm_of_fall (hx : s.xstep.toNat = 3 ∨ s.xstep.toNat = 4) (hn : s.xn = isEight n)
    (h : s.ovf = false ∧ s.cnt.toNat % 2 = 1 ∧ s.cnt.toNat < 2 * bitsOf n)
    (hclock : s.follows = false → s.clkPort = true) : TransferForm n s :=
  ⟨by omega, fun _ => by omega, fun _ => by omega, fun _ => h, fun _ => by omega, fun _ => by omega, fun _ => hn,
    fun hf _ => hclock hf, fun _ _ => by omega, fun _ => by omega⟩

/-- Before X5. -/
theorem transferForm_of_test (hx : s.xstep.toNat = 5) (hn : s.xn = isEight n)
    (h : s.ovf = decide (s.cnt = 0#5) ∧ s.cnt.toNat % 2 = 0 ∧ s.cnt.toNat + 2 ≤ 2 * bitsOf n)
    (hclock : s.follows = false → s.clkPort = false) : TransferForm n s :=
  ⟨by omega, fun _ => by omega, fun _ => by omega, fun _ => by omega, fun _ => h, fun _ => by omega, fun _ => hn,
    fun _ _ => by omega, fun hf _ => hclock hf, fun _ => by omega⟩

/-- Before X6, X7 or X8: every edge is counted. -/
theorem transferForm_of_done (hx : 6 ≤ s.xstep.toNat ∧ s.xstep.toNat ≤ 8) (hn : s.xn = isEight n)
    (h : s.ovf = true ∧ s.cnt = 0#5) (hclock : s.follows = false → s.clkPort = false)
    (hreleased : s.xstep.toNat = 8 → s.sr = 0xFF#8 ∧ (s.follows = false → s.dol = true)) : TransferForm n s :=
  ⟨by omega, fun _ => by omega, fun _ => by omega, fun _ => by omega, fun _ => by omega, fun _ => h, fun _ => hn,
    fun _ _ => by omega, fun hf _ => hclock hf, hreleased⟩

theorem nextX_xstep_toNat (h : s.xstep.toNat ≤ 8) : (s.xstep + 1#4).toNat = s.xstep.toNat + 1 := by
  bv_omega

theorem countEdge_cnt_toNat (h : 1 ≤ s.cnt.toNat) : (s.cnt - 1#5).toNat = s.cnt.toNat - 1 := by
  bv_omega

theorem edgesOf_toNat (n : XferCount) : (edgesOf n).toNat = 2 * bitsOf n ∧ 1 ≤ bitsOf n := by
  cases n <;> decide

/-- Each step of a transfer but its last leads to the form of the next phase (R143, its counter). -/
theorem TransferForm.step (h : TransferForm n s) (hdir : s.clkDir = true) (hu : transferStep n s = .moved u)
    (hlast : s.xstep.toNat ≠ 8) : TransferForm n (lineUpdate u) := by
  have hx := nextX_xstep_toNat h.xstepRange
  rcases transferStep_moved hu with
    ⟨hk, rfl⟩ | ⟨hk, rfl⟩ | ⟨hk, hf, rfl⟩ | ⟨hk, hf, -, rfl⟩ | ⟨hk, -, rfl⟩ | ⟨hk, rfl⟩ | ⟨hk, rfl⟩ | ⟨hk, rfl⟩ |
    ⟨hk, rfl⟩ | ⟨hk, rfl⟩ <;> rw [hk] at hx
  case inl =>
    obtain ⟨hedges, hbits⟩ := edgesOf_toNat n
    refine transferForm_of_rise (.inl hx) rfl ⟨rfl, ?_⟩
    show (edgesOf n).toNat % 2 = 0 ∧ 2 ≤ (edgesOf n).toNat ∧ (edgesOf n).toNat ≤ 2 * bitsOf n
    omega
  case inr.inl => exact transferForm_of_rise (.inr hx) (h.length (by omega)) (h.beforeRise (.inl hk))
  case inr.inr.inl =>
    obtain ⟨hovf, heven, hmin, hmax⟩ := h.beforeRise (.inr hk)
    have hcnt := countEdge_cnt_toNat (s := s) (by omega)
    refine transferForm_of_fall (.inl hx) (h.length (by omega)) ⟨hovf, ?_⟩ fun _ => rfl
    show (s.cnt - 1#5).toNat % 2 = 1 ∧ (s.cnt - 1#5).toNat < 2 * bitsOf n
    omega
  case inr.inr.inr.inl =>
    obtain ⟨hovf, heven, hmin, hmax⟩ := h.beforeRise (.inr hk)
    have hcnt := countEdge_cnt_toNat (s := s) (by omega)
    refine transferForm_of_fall (.inl hx) (h.length (by omega)) ⟨hovf, ?_⟩ fun hd => absurd (hf.symm.trans hd) nofun
    show (s.cnt - 1#5).toNat % 2 = 1 ∧ (s.cnt - 1#5).toNat < 2 * bitsOf n
    omega
  case inr.inr.inr.inr.inl =>
    exact transferForm_of_fall (.inr hx) (h.length (by omega)) (h.beforeFall (.inl hk)) fun hf =>
      h.clockHigh hf (.inl hk)
  case inr.inr.inr.inr.inr.inl =>
    obtain ⟨hovf, hodd, hmax⟩ := h.beforeFall (.inr hk)
    have hcnt := countEdge_cnt_toNat (s := s) (by omega)
    refine transferForm_of_test hx (by simpa using h.length (by omega)) ⟨?_, ?_⟩ fun hf => ?_
    · show (if s.cnt - 1#5 = 0#5 then true else s.ovf) = decide (s.cnt - 1#5 = 0#5)
      rw [hovf]
      rfl
    · show (s.cnt - 1#5).toNat % 2 = 0 ∧ (s.cnt - 1#5).toNat + 2 ≤ 2 * bitsOf n
      omega
    · have hdrive : s.follows = false := (State.follows_congr (by simp)).symm.trans hf
      simp [hdrive]
  case inr.inr.inr.inr.inr.inr.inl =>
    obtain ⟨hovf, heven, hmax⟩ := h.atTest hk
    have hclock (hf : s.follows = false) := h.clockLow hf (by omega)
    cases hdone : s.ovf
    · have hcnt : s.cnt ≠ 0#5 := by simpa [hdone] using hovf
      have hcnt0 : s.cnt.toNat ≠ 0 := fun h0 => hcnt (BitVec.eq_of_toNat_eq h0)
      have hrange : 2 ≤ s.cnt.toNat ∧ s.cnt.toNat ≤ 2 * bitsOf n := by omega
      refine transferForm_of_rise (.inl ?_) (h.length (by omega)) ⟨hdone, heven, hrange⟩
      simp [loopTest, hdone]
    · have hcnt : s.cnt = 0#5 := by simpa [hdone] using hovf
      have h6 : (lineUpdate (loopTest s)).xstep.toNat = 6 := by simp [loopTest, hdone]
      exact transferForm_of_done (by omega) (h.length (by omega)) ⟨hdone, hcnt⟩ hclock fun h8 => by omega
  case inr.inr.inr.inr.inr.inr.inr.inl =>
    have h7 : (lineUpdate (nextX s)).xstep.toNat = 7 := hx
    exact transferForm_of_done (by omega) (h.length (by omega)) (h.done (by omega)) (h.clockLow · (by omega))
      fun h8 => by omega
  case inr.inr.inr.inr.inr.inr.inr.inr.inl =>
    have h8 : (lineUpdate (nextX (capture s))).xstep.toNat = 8 := hx
    refine transferForm_of_done (by omega) (h.length (by omega)) (h.done (by omega)) (h.clockLow · (by omega))
      fun _ => ⟨rfl, fun hf => ?_⟩
    obtain ⟨-, hdol, -⟩ := lineUpdate_clock_low (s := nextX (capture s)) hdir (h.clockLow hf (by omega))
    simpa [nextX, capture] using hdol
  case inr.inr.inr.inr.inr.inr.inr.inr.inr => exact absurd hk hlast

/-- Where the block drives the clock and has it pulled but at X3 and X4, a transfer step keeps it so (R143). -/
theorem TransferForm.clock_pulled (h : TransferForm n s) (hf : s.follows = false) (hu : transferStep n s = .moved u)
    (hpulled : s.xstep.toNat ≠ 3 ∧ s.xstep.toNat ≠ 4 → s.clkPort = false)
    (hx : u.xstep.toNat ≠ 3 ∧ u.xstep.toNat ≠ 4) : u.clkPort = false := by
  have hnext := nextX_xstep_toNat h.xstepRange
  rcases transferStep_moved hu with
    ⟨hk, rfl⟩ | ⟨hk, rfl⟩ | ⟨hk, -, rfl⟩ | ⟨hk, hfollow, -⟩ | ⟨hk, -, rfl⟩ | ⟨-, rfl⟩ | ⟨hk, rfl⟩ | ⟨hk, rfl⟩ |
    ⟨hk, rfl⟩ | ⟨hk, rfl⟩
  case inl | inr.inl => exact hpulled (by omega)
  case inr.inr.inl | inr.inr.inr.inr.inl =>
    obtain ⟨h3, h4⟩ := hx
    simp only [nextX_xstep] at h3 h4
    simp at h3 h4
    omega
  case inr.inr.inr.inl => cases hf.symm.trans hfollow
  case inr.inr.inr.inr.inr.inl => exact if_neg (by simp [hf])
  all_goals exact h.clockLow hf (by omega)

/-- The last step of a transfer leaves nothing of it over (R143, its exit state). -/
theorem TransferForm.exit (h : TransferForm n s) (hx : s.xstep.toNat = 8) :
    OutsideTransfer { s with datDir := true, xstep := 0#4, cstep := s.cstep + 1#4 } := by
  obtain ⟨hsr, hdol⟩ := h.released hx
  exact ⟨rfl, (h.done (by omega)).2, rfl, hsr, hdol⟩

theorem transferForm_of_fresh (hx : s.xstep = 0#4) (hcnt : s.cnt = 0#5) : TransferForm n s := by
  have hx0 : s.xstep.toNat = 0 := by rw [hx]; rfl
  exact ⟨by omega, fun _ => hcnt, fun _ => by omega, fun _ => by omega, fun _ => by omega, fun _ => by omega,
    fun _ => by omega, fun _ _ => by omega, fun _ _ => by omega, fun _ => by omega⟩

end

end Sys2Proof.Machine
end

section
namespace Sys2Proof.Machine

/-! ### An engine step keeps the invariant -/

theorem BusyForm.cstateFits {i : Instr} {s : State} (h : BusyForm i s) : s.cstate.Fits (cstateDuring i s.cstep.toNat) :=
  ⟨h.cstateSet, h.cstateKept⟩

theorem BusyForm.pstateFits {i : Instr} {s : State} (h : BusyForm i s) : s.pstate.Fits (pstateDuring i s.cstep.toNat) :=
  ⟨h.pstateSet, h.pstateKept⟩

/-- What a step that goes on must leave, for the form to hold at the next step of the micro-program. -/
structure ArrivesNext (i : Instr) (op : MicroOp) (s t : State) : Prop where
  cstep : t.cstep = s.cstep + 1#4
  xstep : t.xstep = 0#4
  cnt : t.cnt = 0#5
  noResponse : t.rspValid = false
  cstate : t.cstate = op.cstateSet.getD s.cstate
  pstate : t.pstate = op.pstateSet.getD s.pstate
  datPort : t.datPort = op.datPortSet.getD s.datPort
  outside : xferAt i (s.cstep.toNat + 1) = none → OutsideTransfer t
  clockLow : t.follows = false → clockLowFrom i ≤ s.cstep.toNat + 1 → t.clkPort = false

theorem TableStep.busyForm {i : Instr} {op : MicroOp} {s t : State} (k : TableStep i s.cstep.toNat op)
    (h : BusyForm i s) (a : ArrivesNext i op s t) : BusyForm i t := by
  have hlength : (programOf i).length ≤ 15 := programOf_length_le i
  have hc : t.cstep.toNat = s.cstep.toNat + 1 := by
    have hinside := k.inside
    rw [a.cstep]
    bv_omega
  have hcstate := h.cstateFits.set op.cstateSet
  have hpstate := h.pstateFits.set op.pstateSet
  rw [← k.cstate, ← a.cstate, ← hc] at hcstate
  rw [← k.pstate, ← a.pstate, ← hc] at hpstate
  refine ⟨a.noResponse, hc ▸ k.inside, fun n _ => transferForm_of_fresh a.xstep a.cnt, fun hn => a.outside (hc ▸ hn), ?_,
    fun hf hlow _ => a.clockLow hf (hc ▸ hlow), hcstate.1, hcstate.2, hpstate.1, hpstate.2⟩
  rw [hc, k.datPort, a.datPort, h.dataPort]

theorem MicroOp.xferCount_of_goesOn {op : MicroOp} (h : op.goesOn = true) : op.xferCount = none := by
  cases op with
  | xfer n => cases h
  | _ => rfl

section
variable {i : Instr} {s u : State} {op : MicroOp}

/-- A step that goes on by its effect arrives at the next one. -/
theorem BusyForm.goesOn (h : BusyForm i s) (hop : (programOf i)[s.cstep.toNat]? = some op) (hgo : op.goesOn = true) :
    BusyForm i (lineUpdate (advance (op.effect s))) := by
  have hxfer : xferAt i s.cstep.toNat = none := by
    rw [xferAt_eq_program, hop, Option.bind_some, MicroOp.xferCount_of_goesOn hgo]
  have hout := h.noTransfer hxfer
  have q := op.effect_sequencer s
  have k := op.effect_kept s
  obtain ⟨hclock, hpattern⟩ := program_clock_and_pattern hop hgo
  refine (tableStep_of_goesOn hop hgo).busyForm h
    ⟨congrArg (· + 1#4) q.cstep, q.xstep.trans hout.xstepZero, q.cnt.trans hout.countZero,
      q.rspValid.trans h.noResponse, op.effect_cstate s, op.effect_pstate s, op.effect_datPort s, fun hn => ?_,
      fun hf hlow => ?_⟩
  · obtain ⟨hsr, hdir⟩ := hpattern hn
    have hreleased : (op.effect s).sr = 0xFF#8 := (k.sr hsr).trans hout.patternReleased
    refine ⟨q.xstep.trans hout.xstepZero, q.cnt.trans hout.countZero, (k.datDir hdir).trans hout.dataOutput, hreleased,
      fun hf => lineUpdate_dol_released (s := advance (op.effect s)) hreleased ?_⟩
    have hdrive : s.follows = false := (State.follows_congr q.cfg).symm.trans hf
    exact q.dol.trans (hout.latchReleased hdrive)
  · have hdrive : s.follows = false := (State.follows_congr q.cfg).symm.trans hf
    have hport : (lineUpdate (advance (op.effect s))).clkPort = op.clkPortSet.getD s.clkPort := op.effect_clkPort hdrive
    obtain hset | ⟨hset, hbefore⟩ := hclock hlow
    · rw [hport, hset]
      rfl
    · rw [hport, hset]
      exact h.clockLow hdrive hbefore (.inl hxfer)

theorem transferStep_exit {n : XferCount} (hu : transferStep n s = .moved u) (hx : s.xstep.toNat = 8) :
    u = { s with datDir := true, xstep := 0#4, cstep := s.cstep + 1#4 } := by
  have h8 : s.xstep = 8#4 := BitVec.eq_of_toNat_eq hx
  cases (transferStep_X8 h8).symm.trans hu
  rfl

theorem transferStep_stays {n : XferCount} (hu : transferStep n s = .moved u) (hx : s.xstep.toNat ≠ 8) :
    u.cstep = s.cstep := by
  rcases transferStep_moved hu with
    ⟨-, rfl⟩ | ⟨-, rfl⟩ | ⟨-, -, rfl⟩ | ⟨-, -, -, rfl⟩ | ⟨-, -, rfl⟩ | ⟨-, rfl⟩ | ⟨-, rfl⟩ | ⟨-, rfl⟩ | ⟨-, rfl⟩ |
    ⟨h8, -⟩
  case inr.inr.inr.inr.inr.inr.inr.inr.inr => exact absurd h8 hx
  all_goals rfl

theorem transferStep_response {n : XferCount} (hu : transferStep n s = .moved u) :
    u.rspValid = s.rspValid ∧ u.result = s.result := by
  rcases transferStep_moved hu with
    ⟨-, rfl⟩ | ⟨-, rfl⟩ | ⟨-, -, rfl⟩ | ⟨-, -, -, rfl⟩ | ⟨-, -, rfl⟩ | ⟨-, rfl⟩ | ⟨-, rfl⟩ | ⟨-, rfl⟩ | ⟨-, rfl⟩ | ⟨-, rfl⟩
  all_goals exact ⟨rfl, rfl⟩

/-- The last step of a transfer arrives at the next step of the micro-program. -/
theorem BusyForm.exits {n : XferCount} (h : BusyForm i s) (hop : (programOf i)[s.cstep.toNat]? = some (.xfer n))
    (hx : s.xstep.toNat = 8) : BusyForm i { s with datDir := true, xstep := 0#4, cstep := s.cstep + 1#4 } := by
  have hform := h.transfer n (xferAt_eq_some_iff.mpr hop)
  obtain ⟨htable, -, -⟩ := tableStep_of_xfer hop
  have hout := hform.exit hx
  exact htable.busyForm h ⟨rfl, rfl, hout.countZero, h.noResponse, rfl, rfl, rfl, fun _ => hout,
    fun hf _ => hform.clockLow hf (by omega)⟩

/-- Every other transfer step stays at its XFER step. -/
theorem BusyForm.transfers {n : XferCount} (h : BusyForm i s) (hdir : s.clkDir = true)
    (hop : (programOf i)[s.cstep.toNat]? = some (.xfer n)) (hu : transferStep n s = .moved u)
    (hx : s.xstep.toNat ≠ 8) : BusyForm i (lineUpdate u) := by
  have hxfer := xferAt_eq_some_iff.mpr hop
  have hform := h.transfer n hxfer
  have k := transferStep_kept hu
  have hcstate : (lineUpdate u).cstate = s.cstate := k.cstate (by simp [MicroOp.regs])
  have hpstate : (lineUpdate u).pstate = s.pstate := k.pstate (by simp [MicroOp.regs])
  have hc : (lineUpdate u).cstep = s.cstep := (transferStep_stays hu hx :)
  constructor
  case noResponse => exact (transferStep_response hu).1.trans h.noResponse
  all_goals rw [hc]
  case cstepRange => exact h.cstepRange
  case transfer =>
    intro m hm
    cases hxfer.symm.trans hm
    exact hform.step hdir hu hx
  case noTransfer => exact fun hn => absurd (hxfer.symm.trans hn) nofun
  case dataPort => exact (k.datPort (by simp [MicroOp.regs])).trans h.dataPort
  case clockLow =>
    intro hf hlow hphase
    have hdrive : s.follows = false := (State.follows_congr (MicroOp.run_untouched (op := .xfer n) hu).cfg).symm.trans hf
    refine hform.clock_pulled (u := u) hdrive hu (fun hx' => h.clockLow hdrive hlow (.inr hx')) (hphase.resolve_left ?_)
    rw [hxfer]
    exact Option.some_ne_none n
  case cstateSet => exact hcstate ▸ h.cstateSet
  case cstateKept => exact hcstate ▸ h.cstateKept
  case pstateSet => exact hpstate ▸ h.pstateSet
  case pstateKept => exact hpstate ▸ h.pstateKept

theorem pStartMatched_run (s : State) : pStartMatched.run s =
    { s with pstate := .ackAddress, xdir := s.tmp.getLsbD 0, cstep := s.cstep + 1#4 } := rfl

/-- P_START's match arrives at its step 7 (R183). -/
theorem BusyForm.matched {own : Addr} (h : BusyForm (.pStart own) s) (hc : s.cstep = 6#4) :
    BusyForm (.pStart own) (pStartMatched.run s) := by
  have hc6 : s.cstep.toNat = 6 := by rw [hc]; rfl
  have htable : TableStep (.pStart own) s.cstep.toNat (.set (.setP .ackAddress)) := by
    rw [hc6]
    exact ⟨of_decide_eq_true rfl, rfl, rfl, rfl⟩
  have hout := h.noTransfer (by rw [hc6]; rfl)
  have hclock (hf : s.follows = false) : s.clkPort = false :=
    h.clockLow hf (by rw [hc6]; exact Nat.le_succ 5) (.inl (by rw [hc6]; rfl))
  rw [pStartMatched_run]
  exact htable.busyForm h ⟨rfl, hout.xstepZero, hout.countZero, h.noResponse, rfl, rfl, rfl,
    fun _ => ⟨hout.xstepZero, hout.countZero, hout.dataOutput, hout.patternReleased, hout.latchReleased⟩,
    fun hf _ => hclock hf⟩

end

/-- `finish` leaves the idle form, where the command's tables ask it of the steps that can end the command. -/
theorem BusyForm.ends {i : Instr} {s : State} {op : MicroOp} {l : ActionList} {code : ResultCode} (h : BusyForm i s)
    (hrole : i.role = s.cfg.role) (hop : (programOf i)[s.cstep.toNat]? = some op) (hl : l ∈ op.lists)
    (hcode : l.ending = some code) :
    IdleForm (lineUpdate (finish code (l.settings.foldl GuardedSetting.apply s))) := by
  obtain ⟨hxfer, hforced, hclock⟩ := tables_of_list hop hl
  have hout := h.noTransfer hxfer
  have hdata : s.datPort = true := by rw [h.dataPort, hforced]; rfl
  have hbetween := list_ends_between hop hl hcode h.cstateFits h.pstateFits
  obtain ⟨c, p, x, hset⟩ := settings_only l.settings s
  rw [hset] at hbetween ⊢
  refine (sameRegisters_lineUpdate _).idleForm ⟨rfl, ⟨rfl, hout.countZero, hout.dataOutput, hout.patternReleased,
    hout.latchReleased⟩, hdata, hbetween.1, hbetween.2, fun hf htrans => ?_⟩
  obtain hlow | ⟨rfl, hidle, hnone⟩ := hclock
  · exact h.clockLow hf hlow (.inl hxfer)
  · have hstate : c = s.cstate := (congrArg State.cstate hset).symm.trans (by rw [hnone]; rfl)
    have hcontroller : s.cfg.role = .controller := hrole.symm
    simp [State.inTransaction, finish, hcontroller, hstate, h.cstateSet _ hidle] at htrans

/-- A micro-operation that is taken leads to the form of a busy state, or, by `finish`, to that of an idle one. -/
theorem BusyForm.step {i : Instr} {s u : State} {op : MicroOp} (h : BusyForm i s) (hbusy : s.busy = true)
    (hdir : s.clkDir = true) (hrole : i.role = s.cfg.role) (hop : (programOf i)[s.cstep.toNat]? = some op)
    (hu : op.run s = .moved u) :
    (u.busy = true ∧ u.result = s.result ∧ BusyForm i (lineUpdate u)) ∨
      (u.busy = false ∧ u.result ∈ resultsOf i ∧ IdleForm (lineUpdate u)) := by
  obtain ⟨n, rfl, hu⟩ | ⟨l, hl, rfl⟩ | ⟨rfl, hgo⟩ := MicroOp.run_moved hu
  · refine .inl ⟨(transferStep_busy hu).trans hbusy, (transferStep_response hu).2, ?_⟩
    by_cases hx : s.xstep.toNat = 8
    · rw [transferStep_exit hu hx]
      exact (sameRegisters_lineUpdate _).busyForm (h.exits hop hx)
    · exact h.transfers hdir hop hu hx
  · obtain ⟨code, hcode, hrun⟩ | ⟨hnone, hrun⟩ := l.run_ending s
    · rw [hrun]
      exact .inr ⟨rfl, program_ending (List.mem_of_getElem? hop) hl hcode, h.ends hrole hop hl hcode⟩
    · obtain ⟨⟨own, rfl⟩, hc, rfl⟩ := list_goesOn hop hl hnone
      exact .inl ⟨hbusy, rfl, (sameRegisters_lineUpdate _).busyForm (h.matched (BitVec.eq_of_toNat_eq hc))⟩
  · have q := op.effect_sequencer s
    exact .inl ⟨q.busy.trans hbusy, q.result, h.goesOn hop hgo⟩

/-- No transfer step from a state with the form is past X8 (R131). -/
theorem MicroOp.run_noStep {op : MicroOp} {s : State} (h : op.run s = .noStep) :
    ∃ n, op = .xfer n ∧ 8 < s.xstep.toNat := by
  cases op with
  | xfer n =>
    refine ⟨n, rfl, ?_⟩
    simp only [MicroOp.run, transferStep, tglRise, waitHighAndSample, tglFall] at h
    split at h
    case h_3 => split at h <;> [split at h; skip] <;> cases h
    case h_4 => split at h <;> cases h
    case h_10 => grind
    all_goals cases h
  | waitSclHigh | waitStartDet =>
    simp only [MicroOp.run] at h
    split at h <;> cases h
  | _ => cases h

theorem illegalCmd_notMem_resultsOf (i : Instr) : ResultCode.illegalCmd ∉ resultsOf i := by
  cases i <;> simp [resultsOf]

/-- ENGINE's step of a command succeeds and keeps the invariant. -/
theorem exec_keeps_inv {i : Instr} {s : State} (h : Inv s) (hruns : s.runs i) : ∃ t, exec i s = .next t ∧ Inv t := by
  obtain ⟨hbusy, hi⟩ := hruns
  obtain ⟨j, hj, hform⟩ := h.busy hbusy
  cases hi.symm.trans hj
  obtain ⟨hrole, -⟩ := encode_of_decode hi
  obtain ⟨op, hop⟩ : ∃ op, (programOf i)[s.cstep.toNat]? = some op :=
    ⟨_, List.getElem?_eq_getElem hform.cstepRange⟩
  cases hu : op.run s with
  | holds => exact ⟨s, (exec_busy hbusy).trans (engineStep_holds hop hu), h⟩
  | noStep =>
    obtain ⟨n, rfl, hx⟩ := MicroOp.run_noStep hu
    have hrange := (hform.transfer n (xferAt_eq_some_iff.mpr hop)).xstepRange
    omega
  | moved u =>
    refine ⟨lineUpdate u, (exec_busy hbusy).trans (engineStep_moved hop hu), ?_⟩
    have k := MicroOp.run_untouched hu
    have hfollow (hf : u.follows = true) : u.clkPort = true := by
      have hf' : s.follows = true := (State.follows_congr k.cfg).symm.trans hf
      exact (MicroOp.run_clkPort_of_follow hu hf').trans (h.followReleases hf')
    have hdir : u.clkDir = true := k.clkDir.trans h.clockOutput
    have hdecode : decode u.cfg.role u.cmdr = .ok i := by rw [k.cfg, k.cmdr, hi]
    obtain ⟨hb, hresult, hbusyForm⟩ | ⟨hb, hresult, hidleForm⟩ := hform.step hbusy h.clockOutput hrole hop hu
    · exact ⟨lineUpdate_settled u, hdir, hfollow, fun hr => k.fIllegal.trans (h.illegalRecorded (hresult.symm.trans hr)),
        fun hidle => absurd (hb.symm.trans hidle) nofun, fun _ => ⟨i, hdecode, hbusyForm⟩⟩
    · exact ⟨lineUpdate_settled u, hdir, hfollow,
        fun hr => absurd hresult (hr.symm ▸ illegalCmd_notMem_resultsOf i), fun _ => hidleForm,
        fun hbusy' => absurd (hb.symm.trans hbusy') nofun⟩

theorem engineTurn_keeps_inv {s : State} (h : Inv s) : ∃ t, engineTurn s = .next t ∧ Inv t := by
  cases hb : s.busy with
  | false => exact ⟨s, engineTurn_idle hb, h⟩
  | true =>
    obtain ⟨i, hi, -⟩ := h.busy hb
    rw [engineTurn_runs ⟨hb, hi⟩]
    exact exec_keeps_inv h ⟨hb, hi⟩

/-- Settles O59, by the agent of the step. -/
theorem everyStepKeepsInvariant : Obligations.EveryStepKeepsInvariant := by
  unfold Obligations.EveryStepKeepsInvariant
  intro s h
  cases hs : s.sched with
  | nil =>
    rw [step_nil hs]
    exact engineTurn_keeps_inv h
  | cons e rest =>
    have hrest := h.sched rest
    rw [step_cons hs]
    cases e with
    | engine => exact engineTurn_keeps_inv hrest
    | host w => exact hostTurn_keeps_inv hrest
    | peer c d => exact ⟨_, rfl, (sameRegisters_peer c d _).inv hrest (lineUpdate_settled _)⟩
    | reset => exact ⟨_, rfl, resetBlock_inv _⟩

/-! ### Consequences of the form -/

theorem ownSda_of_released {s : State} (hport : s.datPort = true) (hdol : s.dol = true) : s.ownSda = true := by
  simp [State.ownSda, hport, hdol]

/-- Settles O26: at X7 and X8 the clock is pulled, so the latch shows the released pattern 0xFF. -/
theorem captureReleasesData : Obligations.CaptureReleasesData := by
  unfold Obligations.CaptureReleasesData
  intro i n s hinv hruns hxfer hf
  obtain ⟨hbusy, hi⟩ := hruns
  obtain ⟨j, hj, hform⟩ := hinv.busy hbusy
  cases hi.symm.trans hj
  have hT := hform.transfer n hxfer
  obtain ⟨-, -, hforced⟩ := tableStep_of_xfer (xferAt_eq_some_iff.mp hxfer)
  have hdata : s.datPort = true := by rw [hform.dataPort, hforced]; rfl
  refine ⟨fun hx => ?_, fun hx => ?_⟩
  · have hport := hT.clockLow hf (by simp [hx])
    have hdol : (lineUpdate { s with tmp := s.sr, sr := 0xFF#8, xstep := 8#4 }).dol = true := by
      obtain ⟨-, hdol, -⟩ := lineUpdate_clock_low (s := { s with tmp := s.sr, sr := 0xFF#8, xstep := 8#4 })
        hinv.clockOutput hport
      simpa using hdol
    exact ⟨_, exec_xfer_moved hbusy hxfer (transferStep_X7 hx), rfl, rfl, hdol, ownSda_of_released hdata hdol⟩
  · obtain ⟨hsr, hdolBefore⟩ := hT.released (by simp [hx])
    have hdol := lineUpdate_dol_released (s := { s with datDir := true, xstep := 0#4, cstep := s.cstep + 1#4 })
      hsr (hdolBefore hf)
    exact ⟨_, exec_xfer_moved hbusy hxfer (transferStep_X8 hx), rfl, rfl, rfl, hdol, ownSda_of_released hdata hdol⟩

/-- Settles O37: P_START's step 6 runs outside any transfer, where the pattern is released, and writes neither RDATA nor
XDIR. -/
theorem addressMismatchResult : Obligations.AddressMismatchResult := by
  unfold Obligations.AddressMismatchResult
  intro own s hinv hruns hc hmatch
  obtain ⟨hbusy, hi⟩ := hruns
  obtain ⟨j, hj, hform⟩ := hinv.busy hbusy
  cases hi.symm.trans hj
  have hc6 : s.cstep.toNat = 6 := by rw [hc]; rfl
  have hout := hform.noTransfer (by rw [hc6]; rfl)
  have hdata : s.datPort = true := by rw [hform.dataPort, hc6]; rfl
  obtain ⟨-, -, -, -, -, -, hmismatch, -⟩ := pStartSteps own s hbusy
  refine ⟨_, hmismatch hc hmatch, rfl, rfl, rfl, rfl, rfl, rfl, hout.patternReleased, fun hf => ?_⟩
  exact ownSda_of_released hdata (lineUpdate_dol_released hout.patternReleased (hout.latchReleased hf))

end Sys2Proof.Machine
end

section
namespace Sys2Proof.Machine

/-! ### The end of a run of a host program (R220) -/

/-- The first step of a run. -/
theorem run_succ_first {s t : State} {k : Nat} (h : Host.Core.run core (k + 1) s = .next t) :
    ∃ u, step s = .next u ∧ Host.Core.run core k u = .next t := by
  simp only [Host.Core.run] at h
  split at h
  · next u hu => exact ⟨u, hu, h⟩
  · cases h
  · cases h

/-- The last step of a run. -/
theorem run_succ_last {s t : State} {k : Nat} (h : Host.Core.run core (k + 1) s = .next t) :
    ∃ u, Host.Core.run core k s = .next u ∧ step u = .next t := by
  induction k generalizing s with
  | zero =>
    obtain ⟨u, hu, ht⟩ := run_succ_first h
    cases ht
    exact ⟨s, rfl, hu⟩
  | succ k ih =>
    obtain ⟨v, hv, hrun⟩ := run_succ_first h
    obtain ⟨u, hu, ht⟩ := ih hrun
    exact ⟨u, (run_succ_next hv).trans hu, ht⟩

theorem issuedWords_succ_last {s u t : State} {k : Nat} (hu : Host.Core.run core k s = .next u) (ht : step u = .next t) :
    issuedWords (k + 1) s = issuedWords k s ++ u.issues.toList := by
  rw [issuedWords_add hu, issuedWords_succ ht]
  simp [issuedWords]

/-- A step in which HOST issues a word puts it in CMDR (R104). -/
theorem step_issues {s t : State} {w : Word} (hw : s.issues = some w) (h : step s = .next t) : t.cmdr = w := by
  obtain ⟨hhead, hidle⟩ := issues_eq_some.mp hw
  obtain ⟨rest, hs⟩ := List.head?_eq_some_iff.mp hhead
  rw [step_cons hs] at h
  obtain ⟨hbusy, -⟩ | ⟨-, hcmdr⟩ := hostTurn_cmdr h
  · exact absurd (hidle.symm.trans hbusy) nofun
  · exact hcmdr

/-- A step in which HOST issues no word: nothing happens to the command and the response, or ENGINE steps a busy block, or
the block is reset. -/
theorem step_issues_none {s t : State} (hw : s.issues = none) (h : step s = .next t) :
    (t.cmdr = s.cmdr ∧ t.busy = s.busy ∧ t.rspValid = s.rspValid ∧ t.fOrder = s.fOrder ∧ t.fIllegal = s.fIllegal) ∨
    (s.busy = true ∧ s.engineActs ∧ t.cmdr = s.cmdr) ∨ (t.busy = false ∧ t.rspValid = false) := by
  obtain ⟨hs, ht⟩ | ⟨rest, hs, ht⟩ | ⟨w, rest, hs, ht⟩ | ⟨c, d, rest, hs, rfl⟩ | ⟨rest, hs, rfl⟩ := step_next h
  · cases hb : s.busy with
    | false => cases (engineTurn_idle hb).symm.trans ht; exact .inl ⟨rfl, hb, rfl, rfl, rfl⟩
    | true => exact .inr (.inl ⟨rfl, .inl (by simp [hs]), (engineTurn_keeps ht).2⟩)
  · cases hb : s.busy with
    | false =>
      cases (engineTurn_idle (s := { s with sched := rest }) hb).symm.trans ht
      exact .inl ⟨rfl, hb, rfl, rfl, rfl⟩
    | true => exact .inr (.inl ⟨rfl, .inr (by simp [hs]), (engineTurn_keeps ht).2⟩)
  · have hbusy : s.busy = true := by
      by_contra hidle
      rw [(issues_eq_some (w := w)).mpr ⟨by simp [hs], by simpa using hidle⟩] at hw
      cases hw
    cases (hostTurn_busy (s := { s with sched := rest }) hbusy).symm.trans ht
    exact .inl ⟨rfl, rfl, rfl, rfl, rfl⟩
  · exact .inl ⟨rfl, rfl, rfl, rfl, rfl⟩
  · exact .inr (.inr ⟨rfl, rfl⟩)

/-- CMDR holds the last word issued, until a reset, after which the block is idle without a response (R36, R46). -/
theorem cmdr_lastWord {s t : State} {k : Nat} {w : Word} (h : Host.Core.run core k s = .next t)
    (hlast : (issuedWords k s).getLast? = some w) : t.cmdr = w ∨ (t.busy = false ∧ t.rspValid = false) := by
  induction k generalizing t with
  | zero => cases hlast
  | succ k ih =>
    obtain ⟨u, hu, ht⟩ := run_succ_last h
    rw [issuedWords_succ_last hu ht] at hlast
    cases hw : u.issues with
    | some v =>
      rw [hw, Option.toList_some, List.getLast?_append, List.getLast?_singleton] at hlast
      cases hlast
      exact .inl (step_issues hw ht)
    | none =>
      rw [hw, Option.toList_none, List.append_nil] at hlast
      have hbefore := ih hu hlast
      obtain ⟨hcmdr, hbusy, hvalid, -, -⟩ | ⟨hbusy, -, hcmdr⟩ | hreset := step_issues_none hw ht
      · rwa [hcmdr, hbusy, hvalid]
      · exact .inl (hcmdr.trans (hbefore.resolve_right fun hidle => absurd (hbusy.symm.trans hidle.1) nofun))
      · exact .inr hreset

/-- The step that issues a word does not finish it: the block becomes busy, or refuses the word and records it. -/
theorem step_issues_not_finished {s t : State} {w : Word} (hw : s.issues = some w) (h : step s = .next t) :
    t.busy = true ∨ t.fIllegal = true := by
  obtain ⟨hhead, hidle⟩ := issues_eq_some.mp hw
  obtain ⟨rest, hs⟩ := List.head?_eq_some_iff.mp hhead
  rw [step_cons hs] at h
  obtain ⟨hbusy, -⟩ | ⟨-, i, -, rfl⟩ | ⟨-, -, v, rfl⟩ := hostTurn_next h
  · exact absurd (hidle.symm.trans hbusy) nofun
  · exact .inl rfl
  · exact .inr rfl

/-- Settles O60: the conditions first hold after a step of ENGINE, since any other step that leaves them found them before it;
and CMDR still holds the last word issued. -/
theorem endedRunReportsLastWord : Obligations.EndedRunReportsLastWord := by
  unfold Obligations.EndedRunReportsLastWord
  intro program w k s t ⟨⟨hreached, hissued, ⟨hidle, hvalid⟩, hOrder, hIllegal⟩, hfirst⟩
  obtain ⟨j, rfl⟩ : ∃ j, k = j + 1 := by
    cases k with
    | zero => exact absurd hissued.symm (by simp [issuedWords])
    | succ j => exact ⟨j, rfl⟩
  obtain ⟨u, hu, ht⟩ := run_succ_last hreached
  have hcmdr : t.cmdr = w :=
    (cmdr_lastWord hreached (by simp [hissued])).resolve_right fun h => absurd (hvalid.symm.trans h.2) nofun
  have hnone : u.issues = none := by
    cases hv : u.issues with
    | none => rfl
    | some v => simpa [hidle, hIllegal] using step_issues_not_finished hv ht
  have hbefore : issuedWords j s = program ++ [w] := by
    simpa [hnone] using (issuedWords_succ_last hu ht).symm.trans hissued
  obtain ⟨-, hb, hv, hO, hI⟩ | ⟨hbusy, hengine, hkept⟩ | ⟨-, hinvalid⟩ := step_issues_none hnone ht
  · exact absurd ⟨hu, hbefore, ⟨hb.symm.trans hidle, hv.symm.trans hvalid⟩, hO.symm.trans hOrder, hI.symm.trans hIllegal⟩
      (hfirst j u (Nat.lt_succ_self j))
  · rw [step_engineActs hengine] at ht
    obtain ⟨hi, -⟩ | ⟨i, hruns, hexec⟩ := engineTurn_next ht
    · exact absurd (hbusy.symm.trans hi) nofun
    · have hruns' : u.runs i := hruns
      obtain ⟨-, -, -, hresult⟩ := exec_ends hruns.1 hexec hidle
      have hcfg : t.cfg = u.cfg := (engineTurn_keeps ht).1
      have hdecode : decode t.cfg.role w = .ok i := by rw [hcfg, ← hcmdr, hkept]; exact hruns.2
      exact ⟨hcmdr, i, hdecode, hresult, j, u, rfl, hu, hruns', hkept.symm.trans hcmdr, hengine,
        (step_engineActs hengine).trans ht⟩
  · exact absurd (hvalid.symm.trans hinvalid) nofun

end Sys2Proof.Machine
end

section
namespace Sys2Proof.Machine

/-! ### The micro-operations do not read the schedule -/

/-- The result of a micro-operation with another schedule. -/
def MicroResult.withSched (l : List Event) : MicroResult → MicroResult
  | .moved u => .moved { u with sched := l }
  | .holds => .holds
  | .noStep => .noStep

theorem Cond.eval_sched (c : Cond) (s : State) (l : List Event) : c.eval { s with sched := l } = c.eval s := by
  cases c <;> rfl

theorem GuardedSetting.apply_sched (g : GuardedSetting) (s : State) (l : List Event) :
    g.apply { s with sched := l } = { g.apply s with sched := l } := by
  have hset (x : Setting) : x.apply { s with sched := l } = { x.apply s with sched := l } := by cases x <;> rfl
  unfold GuardedSetting.apply
  split
  · exact hset _
  · rw [Cond.eval_sched]
    split
    · exact hset _
    · rfl

theorem settings_sched (gs : List GuardedSetting) (s : State) (l : List Event) :
    gs.foldl GuardedSetting.apply { s with sched := l } = { gs.foldl GuardedSetting.apply s with sched := l } := by
  induction gs generalizing s with
  | nil => rfl
  | cons g gs ih => rw [List.foldl_cons, List.foldl_cons, GuardedSetting.apply_sched, ih]

theorem ActionList.run_sched (a : ActionList) (s : State) (l : List Event) :
    a.run { s with sched := l } = { a.run s with sched := l } := by
  unfold ActionList.run
  split <;> rw [settings_sched] <;> rfl

theorem tglRise_sched (s : State) (l : List Event) : tglRise { s with sched := l } = (tglRise s).withSched l := by
  have hf : State.follows { s with sched := l } = s.follows := rfl
  simp only [tglRise, hf, apply_ite (MicroResult.withSched l)]
  rfl

theorem waitHighAndSample_sched (s : State) (l : List Event) :
    waitHighAndSample { s with sched := l } = (waitHighAndSample s).withSched l := by
  simp only [waitHighAndSample, apply_ite (MicroResult.withSched l)]
  rfl

theorem transferStep_sched (n : XferCount) (s : State) (l : List Event) :
    transferStep n { s with sched := l } = (transferStep n s).withSched l := by
  unfold transferStep
  dsimp only
  generalize s.xstep.toNat = x
  match x with
  | 2 => exact tglRise_sched s l
  | 3 => exact waitHighAndSample_sched s l
  | 0 | 1 | 4 | 5 | 6 | 7 | 8 | _ + 9 => rfl

theorem MicroOp.run_sched (op : MicroOp) (s : State) (l : List Event) :
    op.run { s with sched := l } = (op.run s).withSched l := by
  cases op with
  | xfer n => exact transferStep_sched n s l
  | set x => cases x <;> rfl
  | waitSclHigh | waitStartDet | checkStart _ | ifThenElse _ _ _ =>
    simp only [MicroOp.run, ActionList.run_sched, Cond.eval_sched, apply_ite MicroResult.moved,
      apply_ite (MicroResult.withSched l)]
    rfl
  | _ => rfl

theorem engineStep_sched {prog : List MicroOp} {s t : State} (h : engineStep prog s = .next t) (l : List Event) :
    engineStep prog { s with sched := l } = .next { t with sched := l } := by
  obtain ⟨op, hop, ⟨hholds, rfl⟩ | ⟨u, hu, rfl⟩⟩ := engineStep_next h
  · exact engineStep_holds hop (by rw [MicroOp.run_sched, hholds]; rfl)
  · exact engineStep_moved hop (u := { u with sched := l }) (by rw [MicroOp.run_sched, hu]; rfl)

/-! ### Playing a schedule -/

/-- From `s`, the events `l` lead to `t` and put `ws` on the wire, whatever events stand after them in the schedule. -/
def Plays (s : State) (l : List Event) (t : State) (ws : List WireEvent) : Prop :=
  ∀ rest, Host.Core.run core l.length { s with sched := l ++ rest } = .next { t with sched := rest } ∧
    wireTrace l.length { s with sched := l ++ rest } = ws

theorem Plays.nil (s : State) : Plays s [] s [] :=
  fun _ => ⟨rfl, rfl⟩

theorem Plays.append {s t u : State} {l m : List Event} {ws vs : List WireEvent} (h : Plays s l t ws)
    (k : Plays t m u vs) : Plays s (l ++ m) u (ws ++ vs) := by
  intro rest
  obtain ⟨hrun, htrace⟩ := h (m ++ rest)
  obtain ⟨krun, ktrace⟩ := k rest
  rw [List.length_append, List.append_assoc, run_add hrun, wireTrace_add hrun, htrace, ktrace]
  exact ⟨krun, rfl⟩

theorem Plays.single {s t : State} {e : Event}
    (h : ∀ rest, turn e { s with sched := rest } = .next { t with sched := rest }) : Plays s [e] t (wireEvents s t) := by
  intro rest
  have hstep : step { s with sched := [e] ++ rest } = .next { t with sched := rest } := h rest
  refine ⟨(run_succ_next hstep).trans rfl, ?_⟩
  simp only [List.length_singleton, wireTrace, hstep, List.append_nil]
  rfl

/-- What a schedule that is played says of the whole run. -/
theorem Plays.runSched {s t : State} {l : List Event} {ws : List WireEvent} (h : Plays s l t ws) (hs : s.sched = l) :
    runSched s = .next { t with sched := [] } ∧ schedTrace s = ws := by
  obtain ⟨hrun, htrace⟩ := h []
  rw [List.append_nil] at hrun htrace
  subst hs
  exact ⟨hrun, htrace⟩

theorem Plays.peer (s : State) (c d : Bool) :
    Plays s [.peer c d] (lineUpdate (setPeer c d s)) (wireEvents s (lineUpdate (setPeer c d s))) :=
  Plays.single fun _ => rfl

theorem Plays.engine {i : Instr} {s t : State} (hruns : s.runs i) (h : exec i s = .next t) :
    Plays s [.engine] t (wireEvents s t) :=
  Plays.single fun rest =>
    (engineTurn_runs (s := { s with sched := rest }) hruns).trans
      ((exec_busy (s := { s with sched := rest }) hruns.1).trans (engineStep_sched ((exec_busy hruns.1).symm.trans h) rest))

theorem Plays.accept {i : Instr} {s : State} (hidle : s.busy = false) (hrole : i.role = s.cfg.role) :
    Plays s [.host (encode i)] (lineUpdate (acceptCommand (encode i) (orderPermits i s) s))
      (wireEvents s (lineUpdate (acceptCommand (encode i) (orderPermits i s) s))) :=
  Plays.single fun rest => by
    have hdecode : decode s.cfg.role (encode i) = .ok i := by rw [decode_encode, if_pos hrole]
    have hturn := hostTurn_accepts (s := { s with sched := rest }) hidle hdecode
    rw [orderPermits_sched] at hturn
    exact hturn

/-- `k` engine steps of a micro-program from `s`, and what they put on the wire; `none` where the command ends before. -/
def engineRun (prog : List MicroOp) : Nat → State → Option (State × List WireEvent)
  | 0, s => some (s, [])
  | k + 1, s =>
    match s.busy, engineStep prog s with
    | true, .next t => (engineRun prog k t).map fun r => (r.1, wireEvents s t ++ r.2)
    | _, _ => none

theorem Plays.engines {i : Instr} {s t : State} {ws : List WireEvent} {k : Nat}
    (hdecode : decode s.cfg.role s.cmdr = .ok i) (h : engineRun (programOf i) k s = some (t, ws)) :
    Plays s (engines k) t ws := by
  induction k generalizing s ws with
  | zero => cases h; exact Plays.nil _
  | succ k ih =>
    simp only [engineRun] at h
    split at h
    · next u hbusy hu =>
      obtain ⟨⟨v, vs⟩, hv, hr⟩ := Option.map_eq_some_iff.mp h
      cases hr
      have hframe := exec_frame (i := i) hbusy ((exec_busy hbusy).trans hu)
      exact (Plays.engine ⟨hbusy, hdecode⟩ ((exec_busy hbusy).trans hu)).append (ih (by rw [hframe.cfg, hframe.cmdr, hdecode]) hv)
    · cases h

end Sys2Proof.Machine
end

section
namespace Sys2Proof.Machine

/-! ### The line update of a step with the clock low, and of one that starts nothing -/

theorem lineUpdate_eq_of {u : State} {scl dol sda : Bool} (hscl : (u.ownScl && u.envScl) = scl)
    (hdol : (if scl then u.dol else u.sr.getLsbD 7) = dol)
    (hsda : (State.ownSda { u with dol := dol } && u.envSda) = sda)
    (hstart : startSeen u.sclObs u.sdaObs scl sda = false) :
    lineUpdate u = { u with sclObs := scl, dol := dol, sdaObs := sda } := by
  subst hscl hdol hsda
  simp only [lineUpdate, hstart, Bool.or_false]

theorem lineUpdate_low {u : State} (h : (u.ownScl && u.envScl) = false) :
    lineUpdate u = { u with
      sclObs := false, dol := u.sr.getLsbD 7
      sdaObs := State.ownSda { u with dol := u.sr.getLsbD 7 } && u.envSda } :=
  lineUpdate_eq_of h rfl rfl (by simp [startSeen])

theorem sampledBit_of_xstep {s t : State} (h : s.xstep ≠ 3#4 ∨ t.xstep ≠ 4#4) : sampledBit s t = false := by
  have hne {x c : BitVec 4} (h : x ≠ c) : ¬ x.toNat = c.toNat := fun he => h (BitVec.eq_of_toNat_eq he)
  obtain h | h := h
  · have h3 : ¬ s.xstep.toNat = 3 := hne h
    simp [sampledBit, h3]
  · have h4 : ¬ t.xstep.toNat = 4 := hne h
    simp [sampledBit, h4]

theorem wireEvents_of_low {s t : State} (hx : s.xstep ≠ 3#4 ∨ t.xstep ≠ 4#4) (h : s.sclObs = false ∨ t.sclObs = false) :
    wireEvents s t = [] := by
  obtain h | h := h <;> simp [wireEvents, sampledBit_of_xstep hx, h]

theorem wireEvents_of_same_data {s t : State} (hx : s.xstep ≠ 3#4 ∨ t.xstep ≠ 4#4) (h : t.sdaObs = s.sdaObs) :
    wireEvents s t = [] := by
  simp [wireEvents, sampledBit_of_xstep hx, h]

/-! ### The bits of a transfer -/

/-- The level of a transferred bit: the peer's `d`, ANDed with `SR[7]` where the block sends. -/
def wireLevel (sends : Bool) (r : Byte) (d : Bool) : Bool :=
  (!sends || r.getLsbD 7) && d

/-- R134's shift. -/
def shiftBit (r : Byte) (b : Bool) : Byte :=
  r.extractLsb' 0 7 ++ BitVec.ofBool b

/-- SR after the peer has presented `bits`. -/
def shiftBits (sends : Bool) : Byte → List Bool → Byte
  | r, [] => r
  | r, d :: bits => shiftBits sends (shiftBit r (wireLevel sends r d)) bits

/-- The levels of the transferred bits. -/
def sentBits (sends : Bool) : Byte → List Bool → List Bool
  | _, [] => []
  | r, d :: bits => wireLevel sends r d :: sentBits sends (shiftBit r (wireLevel sends r d)) bits

theorem getLsbD_shiftBit (r : Byte) (b : Bool) (k : Nat) :
    (shiftBit r b).getLsbD k = if k = 0 then b else decide (k < 8) && r.getLsbD (k - 1) := by
  have hconcat : shiftBit r b = (r.extractLsb' 0 7).concat b := rfl
  have h : k ≠ 0 → (k - 1 < 7 ↔ k < 8) := by omega
  rw [hconcat, BitVec.getLsbD_concat, BitVec.getLsbD_extractLsb', Nat.zero_add]
  split
  · rfl
  · rw [decide_eq_decide.mpr (h ‹_›)]

theorem shiftBits_send (r d : Byte) : shiftBits true r (wireBits d) = r &&& d := by
  refine BitVec.eq_of_getLsbD_eq fun k hk => ?_
  rw [BitVec.getLsbD_and]
  interval_cases k <;> simp only [shiftBits, wireBits, wireLevel, getLsbD_shiftBit] <;> rfl

theorem shiftBits_receive (r d : Byte) : shiftBits false r (wireBits d) = d := by
  refine BitVec.eq_of_getLsbD_eq fun k hk => ?_
  interval_cases k <;> simp only [shiftBits, wireBits, wireLevel, getLsbD_shiftBit] <;> rfl

theorem sentBits_send (r d : Byte) : sentBits true r (wireBits d) = wireBits (r &&& d) := by
  simp only [sentBits, wireBits, wireLevel, getLsbD_shiftBit, BitVec.getLsbD_and]
  rfl

theorem sentBits_receive (r d : Byte) : sentBits false r (wireBits d) = wireBits d :=
  rfl

/-- The events of one bit with a peer that presents `d`: in FOLLOW mode it toggles the clock too. -/
def peerBit (follow : Bool) (d : Bool) : List Event :=
  if follow then followBitSched d else bitSched d

/-- `s` in a transfer, between two bits, with the clock low: the peer drove `d`, SR holds `r`, and `k` bits are to come. -/
def betweenBits (s : State) (d : Bool) (r : Byte) (k : Nat) : State :=
  { s with
    envScl := !s.follows, envSda := d, sr := r
    xstep := if k = 0 then 6#4 else 1#4
    ovf := decide (k = 0), cnt := BitVec.ofNat 5 (2 * k)
    clkPort := s.follows, dol := r.getLsbD 7, sclObs := false
    sdaObs := State.ownSda { s with dol := r.getLsbD 7 } && d }

/-- What X4 writes to CNT and OVF after X2's edge. -/
theorem count_two_edges {k : Nat} (hk : k < 8) :
    BitVec.ofNat 5 (2 * (k + 1)) - 1#5 - 1#5 = BitVec.ofNat 5 (2 * k) ∧
      decide (BitVec.ofNat 5 (2 * (k + 1)) - 1#5 = 1#5) = decide (k = 0) := by
  interval_cases k <;> exact ⟨rfl, rfl⟩

section
variable {i : Instr} {n : XferCount} {s u v : State} {ws : List WireEvent}

theorem Plays.transferStep (hruns : s.runs i) (hxfer : xferAt i s.cstep.toNat = some n)
    (hu : transferStep n s = .moved u) (hv : lineUpdate u = v) (hws : wireEvents s v = ws) : Plays s [.engine] v ws := by
  subst hv hws
  exact Plays.engine hruns (exec_xfer_moved hruns.1 hxfer hu)

theorem Plays.peerTo {c d : Bool} (hv : lineUpdate (setPeer c d s) = v) (hws : wireEvents s v = ws) :
    Plays s [.peer c d] v ws := by
  subst hv hws
  exact Plays.peer s c d

theorem transferStep_sample (h : s.xstep = 3#4) (hscl : s.sclObs = true) :
    Machine.transferStep n s = .moved { s with sr := shiftBit s.sr s.sdaObs, xstep := 4#4 } := by
  simp [Machine.transferStep, h, waitHighAndSample, hscl, nextX, shiftIn, shiftBit]

/-- The state at an X1 with `k + 1` bits to come. -/
structure AtX1 (i : Instr) (n : XferCount) (k : Nat) (s : State) : Prop where
  runs : s.runs i
  xfer : xferAt i s.cstep.toNat = some n
  xstep : s.xstep = 1#4
  ovf : s.ovf = false
  cnt : s.cnt = BitVec.ofNat 5 (2 * (k + 1))
  few : k < 8

/-- X1 to X5 where the block drives the clock, from settled lines: the bit is the peer's, ANDed with `SR[7]` where the block
sends, which it does with the clock low. -/
theorem plays_driven_bit {k : Nat} (h : AtX1 i n k s) (hf : s.follows = false) (hdir : s.clkDir = true)
    (henv : s.envScl = true) (hsettled : s.linesSettled)
    (hsend : s.datDir = true → s.clkPort = false ∧ s.datPort = true) :
    Plays s (engines 5) (betweenBits s s.envSda (shiftBit s.sr (wireLevel s.datDir s.sr s.envSda)) k)
      [.bit (wireLevel s.datDir s.sr s.envSda)] := by
  obtain ⟨hruns, hxfer, hx, hovf, hcnt, hk⟩ := h
  obtain ⟨hscl, hdol, hsda⟩ := id hsettled
  have hlevel : s.sdaObs = wireLevel s.datDir s.sr s.envSda := by
    rw [hsda]
    cases hd : s.datDir with
    | false => simp [State.ownSda, wireLevel, hd]
    | true =>
      obtain ⟨hlow, hport⟩ := hsend hd
      have : s.dol = s.sr.getLsbD 7 := hdol (by simp [hscl, State.ownScl, hdir, hlow])
      simp [State.ownSda, wireLevel, hd, hport, this]
  obtain ⟨hcnt', hovf'⟩ := count_two_edges hk
  generalize wireLevel s.datDir s.sr s.envSda = b at hlevel
  have hdata : (s.ownSda && s.envSda) = b := hsda.symm.trans hlevel
  -- the clock rises at X2, and the data line keeps its level
  have x1 : Plays s [.engine] { s with xstep := 2#4 } [] :=
    Plays.transferStep hruns hxfer (transferStep_X1 hx) (lineUpdate_of_settled hsettled)
      (wireEvents_of_same_data (.inl (by simp [hx])) rfl)
  have x2 : Plays { s with xstep := 2#4 } [.engine]
      { s with clkPort := true, cnt := s.cnt - 1#5, xstep := 3#4, sclObs := true, sdaObs := b } [] :=
    Plays.transferStep hruns hxfer (transferStep_X2_drive rfl hf)
      (lineUpdate_eq_of (by simp [State.ownScl, henv]) (if_pos rfl) hdata (by simp [startSeen, hlevel]))
      (wireEvents_of_same_data (.inl (by simp)) hlevel.symm)
  have x3 : Plays { s with clkPort := true, cnt := s.cnt - 1#5, xstep := 3#4, sclObs := true, sdaObs := b } [.engine]
      { s with
        sr := shiftBit s.sr b, clkPort := true, cnt := s.cnt - 1#5, xstep := 4#4, sclObs := true, sdaObs := b } [.bit b] :=
    Plays.transferStep hruns hxfer (transferStep_sample rfl rfl)
      (lineUpdate_eq_of (by simp [State.ownScl, henv]) (if_pos rfl) hdata (by simp [startSeen]))
      (by simp [wireEvents, sampledBit, hruns.1])
  have x4 : Plays
      { s with
        sr := shiftBit s.sr b, clkPort := true, cnt := s.cnt - 1#5, xstep := 4#4, sclObs := true, sdaObs := b } [.engine]
      { betweenBits s s.envSda (shiftBit s.sr b) k with xstep := 5#4 } [] :=
    Plays.transferStep hruns hxfer (transferStep_X4_drive rfl hf)
      ((lineUpdate_low (by simp [State.ownScl, hdir])).trans
        (by simp [betweenBits, hf, henv, hovf, hcnt, hcnt', hovf', State.ownSda]))
      (wireEvents_of_low (.inl (by simp)) (.inr rfl))
  have x5 : Plays { betweenBits s s.envSda (shiftBit s.sr b) k with xstep := 5#4 } [.engine]
      (betweenBits s s.envSda (shiftBit s.sr b) k) [] :=
    Plays.transferStep hruns hxfer (transferStep_X5 rfl)
      ((lineUpdate_low (by simp [betweenBits, State.ownScl, hdir, hf])).trans
        (by simp [betweenBits, State.ownSda]))
      (wireEvents_of_low (.inl (by simp)) (.inr rfl))
  exact x1.append (x2.append (x3.append (x4.append x5)))

/-- The events of a bit in FOLLOW mode, where the peer pulls the clock before the bit and after it. -/
theorem plays_followed_bit {k : Nat} {d : Bool} (h : AtX1 i n k s) (hf : s.follows = true) (hclk : s.clkPort = true)
    (hsend : s.datDir = true → s.datPort = true) :
    Plays s (followBitSched d) (betweenBits s d (shiftBit s.sr (wireLevel s.datDir s.sr d)) k)
      [.bit (wireLevel s.datDir s.sr d)] := by
  obtain ⟨hruns, hxfer, hx, hovf, hcnt, hk⟩ := h
  have hlevel : (State.ownSda { s with dol := s.sr.getLsbD 7 } && d) = wireLevel s.datDir s.sr d := by
    cases hd : s.datDir with
    | false => simp [State.ownSda, wireLevel]
    | true => simp [State.ownSda, wireLevel, hsend hd]
  obtain ⟨hcnt', hovf'⟩ := count_two_edges hk
  generalize wireLevel s.datDir s.sr d = b at hlevel
  have p0 : Plays s [.peer false d]
      { s with envScl := false, envSda := d, dol := s.sr.getLsbD 7, sclObs := false, sdaObs := b } [] :=
    Plays.peerTo ((lineUpdate_low (by simp [setPeer])).trans (by simp [setPeer, ← hlevel, State.ownSda]))
      (wireEvents_of_low (.inl (by simp [hx])) (.inr rfl))
  have x1 : Plays { s with envScl := false, envSda := d, dol := s.sr.getLsbD 7, sclObs := false, sdaObs := b } [.engine]
      { s with envScl := false, envSda := d, dol := s.sr.getLsbD 7, sclObs := false, sdaObs := b, xstep := 2#4 } [] :=
    Plays.transferStep hruns hxfer (transferStep_X1 hx) ((lineUpdate_low (by simp)).trans (by simp [← hlevel, State.ownSda]))
      (wireEvents_of_low (.inl (by simp [hx])) (.inr rfl))
  have x2 : Plays
      { s with envScl := false, envSda := d, dol := s.sr.getLsbD 7, sclObs := false, sdaObs := b, xstep := 2#4 } [.engine]
      { s with
        envScl := false, envSda := d, dol := s.sr.getLsbD 7, sclObs := false, sdaObs := b
        cnt := s.cnt - 1#5, xstep := 3#4 } [] :=
    Plays.transferStep hruns hxfer (transferStep_X2_follow rfl hf rfl)
      ((lineUpdate_low (by simp)).trans (by simp [← hlevel, State.ownSda])) (wireEvents_of_low (.inl (by simp)) (.inr rfl))
  have p1 : Plays
      { s with
        envScl := false, envSda := d, dol := s.sr.getLsbD 7, sclObs := false, sdaObs := b
        cnt := s.cnt - 1#5, xstep := 3#4 } [.peer true d]
      { s with
        envScl := true, envSda := d, dol := s.sr.getLsbD 7, sclObs := true, sdaObs := b
        cnt := s.cnt - 1#5, xstep := 3#4 } [] :=
    Plays.peerTo (lineUpdate_eq_of (by simp [setPeer, State.ownScl, hclk]) (if_pos rfl) hlevel (by simp [startSeen, setPeer]))
      (wireEvents_of_low (.inr (by simp)) (.inl rfl))
  have x3 : Plays
      { s with
        envScl := true, envSda := d, dol := s.sr.getLsbD 7, sclObs := true, sdaObs := b
        cnt := s.cnt - 1#5, xstep := 3#4 } [.engine]
      { s with
        envScl := true, envSda := d, dol := s.sr.getLsbD 7, sclObs := true, sdaObs := b
        cnt := s.cnt - 1#5, sr := shiftBit s.sr b, xstep := 4#4 } [.bit b] :=
    Plays.transferStep hruns hxfer (transferStep_sample rfl rfl)
      (lineUpdate_eq_of (by simp [State.ownScl, hclk]) (if_pos rfl) hlevel (by simp [startSeen]))
      (by simp [wireEvents, sampledBit, hruns.1])
  have p2 : Plays
      { s with
        envScl := true, envSda := d, dol := s.sr.getLsbD 7, sclObs := true, sdaObs := b
        cnt := s.cnt - 1#5, sr := shiftBit s.sr b, xstep := 4#4 } [.peer false d]
      { betweenBits s d (shiftBit s.sr b) k with ovf := false, cnt := s.cnt - 1#5, xstep := 4#4 } [] :=
    Plays.peerTo ((lineUpdate_low (by simp [setPeer])).trans (by simp [setPeer, betweenBits, hf, hclk, hovf, State.ownSda]))
      (wireEvents_of_low (.inl (by simp)) (.inr rfl))
  have x4 : Plays { betweenBits s d (shiftBit s.sr b) k with ovf := false, cnt := s.cnt - 1#5, xstep := 4#4 } [.engine]
      { betweenBits s d (shiftBit s.sr b) k with xstep := 5#4 } [] :=
    Plays.transferStep hruns hxfer (transferStep_X4_follow rfl hf)
      ((lineUpdate_low (by simp [betweenBits, hf])).trans (by simp [betweenBits, hcnt, hcnt', hovf', State.ownSda]))
      (wireEvents_of_low (.inl (by simp)) (.inr rfl))
  have x5 : Plays { betweenBits s d (shiftBit s.sr b) k with xstep := 5#4 } [.engine]
      (betweenBits s d (shiftBit s.sr b) k) [] :=
    Plays.transferStep hruns hxfer (transferStep_X5 rfl)
      ((lineUpdate_low (by simp [betweenBits, hf])).trans (by simp [betweenBits, State.ownSda]))
      (wireEvents_of_low (.inl (by simp)) (.inr rfl))
  exact p0.append (x1.append (x2.append (p1.append (x3.append (p2.append (x4.append x5))))))

/-- A bit, from an X1 at any level of the clock. The peer's first step makes a start or a stop only where the block drives the
clock, has released it and leaves the data line to the peer. -/
theorem plays_bit {k : Nat} {d : Bool} (h : AtX1 i n k s) (hfollow : s.follows = true → s.clkPort = true)
    (hdrive : s.follows = false → s.clkDir = true)
    (hsend : s.datDir = true → s.datPort = true ∧ (s.follows = false → s.clkPort = false)) :
    ∃ det ws, Plays s (peerBit s.follows d)
        (betweenBits { s with startDet := det } d (shiftBit s.sr (wireLevel s.datDir s.sr d)) k)
        (ws ++ [.bit (wireLevel s.datDir s.sr d)]) ∧
      (s.follows = true ∨ s.sclObs = false ∨ (s.datDir = false ∧ s.sdaObs = d) → det = s.startDet ∧ ws = []) := by
  cases hf : s.follows with
  | true =>
    exact ⟨s.startDet, [], plays_followed_bit h hf (hfollow hf) fun hd => (hsend hd).1, fun _ => ⟨rfl, rfl⟩⟩
  | false =>
    let u := lineUpdate (setPeer true d s)
    have hbit := plays_driven_bit (s := u) ⟨h.runs, h.xfer, h.xstep, h.ovf, h.cnt, h.few⟩ hf (hdrive hf) rfl
      (lineUpdate_settled _) fun hd => ⟨(hsend hd).2 hf, (hsend hd).1⟩
    refine ⟨u.startDet, wireEvents s u, (Plays.peer s true d).append hbit, ?_⟩
    have hstart : u.startDet = (s.startDet || startSeen s.sclObs s.sdaObs u.sclObs u.sdaObs) := rfl
    rintro (hc | hlow | ⟨hlistens, hd⟩)
    · cases hc
    · exact ⟨by simp [hstart, hlow, startSeen], wireEvents_of_low (.inl (by simp [h.xstep])) (.inl hlow)⟩
    · have hsda : u.sdaObs = s.sdaObs := by
        rw [hd, lineUpdate_sdaObs]
        simp [setPeer, hlistens]
      exact ⟨by simp [hstart, hsda, startSeen], wireEvents_of_same_data (.inl (by simp [h.xstep])) hsda⟩

/-- What a transfer needs of the lines: in FOLLOW mode the block leaves the clock released, otherwise it can drive it; and the
block sends on a released port, with the clock low where it drives it. -/
structure TransferLines (s : State) : Prop where
  follow : s.follows = true → s.clkPort = true
  drive : s.follows = false → s.clkDir = true
  send : s.datDir = true → s.datPort = true ∧ (s.follows = false → s.clkPort = false)

/-- All bits that are to come. -/
theorem plays_bits {bits : List Bool} {d : Bool} {r : Byte} (hruns : s.runs i) (hxfer : xferAt i s.cstep.toNat = some n)
    (hlines : TransferLines s) (hlen : bits.length ≤ 8) :
    Plays (betweenBits s d r bits.length) (bits.flatMap (peerBit s.follows))
      (betweenBits s (bits.getLastD d) (shiftBits s.datDir r bits) 0) ((sentBits s.datDir r bits).map .bit) := by
  induction bits generalizing d r with
  | nil => exact Plays.nil _
  | cons e bits ih =>
    obtain ⟨det, ws, hplays, hquiet⟩ := plays_bit (s := betweenBits s d r (bits.length + 1)) (k := bits.length) (d := e)
      ⟨hruns, hxfer, rfl, rfl, rfl, by simpa using hlen⟩ id hlines.drive
      fun hd => ⟨(hlines.send hd).1, id⟩
    obtain ⟨rfl, rfl⟩ := hquiet (.inr (.inl rfl))
    have hrest := ih (d := e) (r := shiftBit r (wireLevel s.datDir r e)) (by simp at hlen; omega)
    rw [List.flatMap_cons, List.getLastD_cons]
    exact hplays.append hrest

/-- `s` after a transfer: the peer's last drive of the data line was `d`, and SR came to `r`. -/
def transferred (n : XferCount) (s : State) (det d : Bool) (r : Byte) : State :=
  { s with
    envScl := !s.follows, envSda := d, tmp := r, sr := 0xFF#8
    cstep := s.cstep + 1#4, xstep := 0#4, xn := decide (n = .eight), startDet := det, ovf := true, cnt := 0#5
    clkPort := s.follows, datDir := true, dol := true, sclObs := false, sdaObs := s.datPort && d }

/-- Where the block or the peer has pulled the clock after a bit, the clock is low. -/
theorem pulled_between_bits (hdrive : s.follows = false → s.clkDir = true) :
    (!(s.clkDir && !s.follows) && !s.follows) = false := by
  cases hf : s.follows with
  | true => simp
  | false => simp [hdrive hf]

theorem plays_return {d : Bool} {r : Byte} (hruns : s.runs i) (hxfer : xferAt i s.cstep.toNat = some n)
    (hxn : s.xn = decide (n = .eight)) (hdrive : s.follows = false → s.clkDir = true) :
    Plays (betweenBits s d r 0) (engines 3) (transferred n s s.startDet d r) [] := by
  have hlow := pulled_between_bits hdrive
  have x6 : Plays (betweenBits s d r 0) [.engine] { betweenBits s d r 0 with xstep := 7#4 } [] :=
    Plays.transferStep hruns hxfer (transferStep_X6 rfl) ((lineUpdate_low (by exact hlow)).trans rfl)
      (wireEvents_of_low (.inl (by simp [betweenBits])) (.inr rfl))
  have x7 : Plays { betweenBits s d r 0 with xstep := 7#4 } [.engine]
      { transferred n s s.startDet d r with
        cstep := s.cstep, xstep := 8#4, datDir := s.datDir, sdaObs := State.ownSda { s with dol := true } && d } [] :=
    Plays.transferStep hruns hxfer (transferStep_X7 rfl) ((lineUpdate_low (by exact hlow)).trans
        (by simp [betweenBits, transferred, hxn]; rfl))
      (wireEvents_of_low (.inl (by simp)) (.inr rfl))
  have x8 : Plays
      { transferred n s s.startDet d r with
        cstep := s.cstep, xstep := 8#4, datDir := s.datDir, sdaObs := State.ownSda { s with dol := true } && d } [.engine]
      (transferred n s s.startDet d r) [] :=
    Plays.transferStep hruns hxfer (transferStep_X8 rfl) ((lineUpdate_low (by exact hlow)).trans
        (by simp [transferred, State.ownSda]))
      (wireEvents_of_low (.inl (by simp)) (.inr rfl))
  exact x6.append (x7.append x8)

/-- A whole transfer with a peer that presents `bits`. -/
def peerTransfer (follow : Bool) (bits : List Bool) : List Event :=
  .engine :: (bits.flatMap (peerBit follow) ++ engines 3)

/-- Starts and stops are excluded at the start of a transfer whose first bit from the peer is `d`: the clock is low, or the
lines are settled and the peer either pulls the clock or leaves the data line as it is. -/
def quietStart (s : State) (d : Bool) : Prop :=
  (s.ownScl && s.envScl) = false ∨ (s.linesSettled ∧ (s.follows = true ∨ (s.datDir = false ∧ s.envSda = d)))

theorem plays_transfer {d : Bool} {bits : List Bool} (hruns : s.runs i) (hxfer : xferAt i s.cstep.toNat = some n)
    (hx : s.xstep = 0#4) (hlines : TransferLines s) (hlen : bits.length + 1 = bitsOf n) :
    ∃ det ws, Plays s (peerTransfer s.follows (d :: bits))
        (transferred n s det (bits.getLastD d) (shiftBits s.datDir s.sr (d :: bits)))
        (ws ++ (sentBits s.datDir s.sr (d :: bits)).map .bit) ∧
      (quietStart s d → det = false ∧ ws = []) := by
  let x : State := lineUpdate { s with
    startDet := false, ovf := false, cnt := BitVec.ofNat 5 (2 * bitsOf n), xn := decide (n = .eight), xstep := 1#4 }
  have hfew : bitsOf n ≤ 8 := by cases n <;> simp [bitsOf]
  have hstart : Plays s [.engine] x (wireEvents s x) :=
    Plays.transferStep hruns hxfer (transferStep_X0 hx) rfl rfl
  have hx1 : AtX1 i n bits.length x :=
    ⟨hruns, hxfer, rfl, rfl, by rw [hlen]; rfl, by omega⟩
  obtain ⟨det, ws, hbit, hquiet⟩ := plays_bit (d := d) hx1 hlines.follow hlines.drive hlines.send
  have hbits := plays_bits (s := { x with startDet := det }) (bits := bits) (d := d)
    (r := shiftBit s.sr (wireLevel s.datDir s.sr d)) hruns hxfer
    ⟨hlines.follow, hlines.drive, hlines.send⟩ (by omega)
  have hreturn := plays_return (s := { x with startDet := det }) (d := bits.getLastD d)
    (r := shiftBits s.datDir s.sr (d :: bits)) hruns hxfer rfl hlines.drive
  refine ⟨det, wireEvents s x ++ ws, ?_, ?_⟩
  · have hall : Plays s ([.engine] ++ (peerBit s.follows d ++ (bits.flatMap (peerBit s.follows) ++ engines 3)))
        (transferred n s det (bits.getLastD d) (shiftBits s.datDir s.sr (d :: bits)))
        (wireEvents s x ++ (ws ++ [.bit (wireLevel s.datDir s.sr d)] ++
          ((sentBits s.datDir (shiftBit s.sr (wireLevel s.datDir s.sr d)) bits).map .bit ++ []))) :=
      hstart.append (hbit.append (hbits.append hreturn))
    simpa [peerTransfer, sentBits] using hall
  · have hdet : x.startDet = startSeen s.sclObs s.sdaObs x.sclObs x.sdaObs := Bool.false_or _
    rintro (hlow | ⟨hsettled, hpeer⟩)
    · have hxlow : x.sclObs = false := hlow
      have hwire : wireEvents s x = [] := wireEvents_of_low (.inl (by simp [hx])) (.inr hxlow)
      obtain ⟨rfl, rfl⟩ := hquiet (.inr (.inl hxlow))
      exact ⟨by simp [hdet, hxlow, startSeen], by rw [hwire, List.append_nil]⟩
    · have hsame : x.sdaObs = s.sdaObs := by
        have : x = { s with
            startDet := false, ovf := false, cnt := BitVec.ofNat 5 (2 * bitsOf n), xn := decide (n = .eight)
            xstep := 1#4 } := lineUpdate_of_settled hsettled
        rw [this]
      have hdata : s.datDir = false → s.sdaObs = s.envSda := fun hlistens => by
        obtain ⟨-, -, hsda⟩ := hsettled
        simp [hsda, State.ownSda, hlistens]
      have hwire : wireEvents s x = [] := wireEvents_of_same_data (.inl (by simp [hx])) hsame
      obtain ⟨rfl, rfl⟩ := hquiet (hpeer.imp_right fun h => .inr ⟨h.1, by rw [hsame, hdata h.1, h.2]⟩)
      exact ⟨by simp [hdet, hsame, startSeen], by rw [hwire, List.append_nil]⟩

end

end Sys2Proof.Machine
end

section
namespace Sys2Proof.Machine

/-! ### Transfers of a byte and of a bit -/

@[simp] theorem peerTransfer_drive (bits : List Bool) : peerTransfer false bits = transferSched bits := rfl

@[simp] theorem peerTransfer_follow (bits : List Bool) : peerTransfer true bits = followTransferSched bits := rfl

section
variable {i : Instr} {s : State}

theorem plays_sent_byte {d : Byte} (hruns : s.runs i) (hxfer : xferAt i s.cstep.toNat = some .eight) (hx : s.xstep = 0#4)
    (hlines : TransferLines s) (hlow : (s.ownScl && s.envScl) = false) (hdir : s.datDir = true) :
    Plays s (peerTransfer s.follows (wireBits d)) (transferred .eight s false (d.getLsbD 0) (s.sr &&& d))
      ((wireBits (s.sr &&& d)).map .bit) := by
  obtain ⟨det, ws, hplays, hquiet⟩ := plays_transfer (d := d.getLsbD 7) (bits := (wireBits d).tail) hruns hxfer hx hlines rfl
  obtain ⟨rfl, rfl⟩ := hquiet (.inl hlow)
  rw [hdir] at hplays
  rw [← sentBits_send, ← shiftBits_send]
  exact hplays

theorem plays_received_byte {d : Byte} (hruns : s.runs i) (hxfer : xferAt i s.cstep.toNat = some .eight) (hx : s.xstep = 0#4)
    (hlines : TransferLines s) (hdir : s.datDir = false) :
    ∃ det ws, Plays s (peerTransfer s.follows (wireBits d)) (transferred .eight s det (d.getLsbD 0) d)
        (ws ++ (wireBits d).map .bit) ∧
      (quietStart s (d.getLsbD 7) → det = false ∧ ws = []) := by
  obtain ⟨det, ws, hplays, hquiet⟩ := plays_transfer (d := d.getLsbD 7) (bits := (wireBits d).tail) hruns hxfer hx hlines rfl
  rw [hdir, show d.getLsbD 7 :: (wireBits d).tail = wireBits d from rfl, shiftBits_receive, sentBits_receive] at hplays
  exact ⟨det, ws, hplays, hquiet⟩

theorem plays_one_bit {d : Bool} (hruns : s.runs i) (hxfer : xferAt i s.cstep.toNat = some .one) (hx : s.xstep = 0#4)
    (hlines : TransferLines s) (hlow : (s.ownScl && s.envScl) = false) :
    Plays s (peerTransfer s.follows [d]) (transferred .one s false d (shiftBit s.sr (wireLevel s.datDir s.sr d)))
      [.bit (wireLevel s.datDir s.sr d)] := by
  obtain ⟨det, ws, hplays, hquiet⟩ := plays_transfer (d := d) (bits := []) hruns hxfer hx hlines rfl
  obtain ⟨rfl, rfl⟩ := hquiet (.inl hlow)
  exact hplays

theorem low_of_pull (hdir : s.clkDir = true) (hport : s.clkPort = false) : (s.ownScl && s.envScl) = false := by
  simp [State.ownScl, hdir, hport]

theorem low_of_peer (henv : s.envScl = false) : (s.ownScl && s.envScl) = false := by
  simp [henv]

theorem transferLines_of_drive (hf : s.follows = false) (hdir : s.clkDir = true)
    (hsend : s.datDir = true → s.datPort = true ∧ s.clkPort = false) : TransferLines s :=
  ⟨fun h => absurd h (by simp [hf]), fun _ => hdir, fun h => ⟨(hsend h).1, fun _ => (hsend h).2⟩⟩

theorem transferLines_of_follow (hf : s.follows = true) (hclk : s.clkPort = true)
    (hsend : s.datDir = true → s.datPort = true) : TransferLines s :=
  ⟨fun _ => hclk, fun h => absurd h (by simp [hf]), fun h => ⟨hsend h, fun h => absurd h (by simp [hf])⟩⟩

end

/-- Settles O23: the transfer of a byte, sending, in either clock mode. -/
theorem byteTransmitted : Obligations.ByteTransmitted := by
  unfold Obligations.ByteTransmitted
  refine ⟨fun i d s hruns hxfer hx hf hclkDir hclk hdir hport hsched => ?_,
    fun i d s hruns hxfer hx hf hclk henv hdir hport hsched => ?_⟩
  · have hplays := plays_sent_byte (d := d) hruns hxfer hx (transferLines_of_drive hf hclkDir fun _ => ⟨hport, hclk⟩)
      (low_of_pull hclkDir hclk) hdir
    obtain ⟨hrun, htrace⟩ := hplays.runSched (by rw [hsched, hf]; rfl)
    exact ⟨hrun.trans (by simp [transferred, hf, hclk, hdir, hport, hx]), htrace⟩
  · have hplays := plays_sent_byte (d := d) hruns hxfer hx (transferLines_of_follow hf hclk fun _ => hport)
      (low_of_peer henv) hdir
    obtain ⟨hrun, htrace⟩ := hplays.runSched (by rw [hsched, hf]; rfl)
    exact ⟨hrun.trans (by simp [transferred, hf, hclk, hdir, hport, hx]), htrace⟩

/-- Settles O24: the transfer of a byte, listening, in either clock mode. -/
theorem byteReceived : Obligations.ByteReceived := by
  unfold Obligations.ByteReceived
  refine ⟨fun i d s hruns hxfer hx hf hclkDir hdir hsched => ?_,
    fun i d s hruns hxfer hx hf hclk hdir hsched => ?_⟩
  · obtain ⟨det, ws, hplays, hquiet⟩ := plays_received_byte (d := d) hruns hxfer hx
      (transferLines_of_drive hf hclkDir fun h => absurd h (by simp [hdir])) hdir
    obtain ⟨hrun, htrace⟩ := hplays.runSched (by rw [hsched, hf]; rfl)
    refine ⟨_, hrun, rfl, rfl, rfl, hf, rfl, rfl, rfl, rfl, rfl, hruns, fun hclk => ?_⟩
    obtain ⟨rfl, rfl⟩ := hquiet (.inl (low_of_pull hclkDir hclk))
    exact ⟨rfl, htrace⟩
  · obtain ⟨det, ws, hplays, hquiet⟩ := plays_received_byte (d := d) hruns hxfer hx
      (transferLines_of_follow hf hclk fun h => absurd h (by simp [hdir])) hdir
    obtain ⟨hrun, htrace⟩ := hplays.runSched (by rw [hsched, hf]; rfl)
    refine ⟨_, hrun, rfl, rfl, rfl, hf, rfl, rfl, rfl, rfl, rfl, hruns, fun henv => ?_⟩
    obtain ⟨rfl, rfl⟩ := hquiet (.inl (low_of_peer henv))
    exact ⟨rfl, htrace⟩

theorem wireLevel_eq (sends d : Bool) (r : Byte) : wireLevel sends r d = if sends then r.getLsbD 7 && d else d := by
  cases sends <;> rfl

/-- Settles O25: the transfer of a single bit, in either direction and either clock mode. -/
theorem oneBitTransferred : Obligations.OneBitTransferred := by
  unfold Obligations.OneBitTransferred
  refine ⟨fun i d s hruns hxfer hx hf hclkDir hclk hport hsched => ?_,
    fun i d s hruns hxfer hx hf hclk henv hport hsched => ?_⟩
  all_goals rw [← wireLevel_eq]
  · have hplays := plays_one_bit (d := d) hruns hxfer hx (transferLines_of_drive hf hclkDir fun _ => ⟨hport, hclk⟩)
      (low_of_pull hclkDir hclk)
    obtain ⟨hrun, htrace⟩ := hplays.runSched (by rw [hsched, hf]; rfl)
    exact ⟨hrun.trans (by simp [transferred, shiftBit, hf, hclk, hport, hx]), htrace⟩
  · have hplays := plays_one_bit (d := d) hruns hxfer hx (transferLines_of_follow hf hclk fun _ => hport)
      (low_of_peer henv)
    obtain ⟨hrun, htrace⟩ := hplays.runSched (by rw [hsched, hf]; rfl)
    exact ⟨hrun.trans (by simp [transferred, shiftBit, hf, hclk, hport, hx]), htrace⟩

end Sys2Proof.Machine
end

section
namespace Sys2Proof.Machine

/-! ### A command that has just been accepted -/

/-- The state at a command's first step, on settled lines. -/
structure Accepted (i : Instr) (s : State) : Prop where
  runs : s.runs i
  cstep : s.cstep = 0#4
  xstep : s.xstep = 0#4
  clkDir : s.clkDir = true
  datDir : s.datDir = true
  datPort : s.datPort = true
  sr : s.sr = 0xFF#8
  settled : s.linesSettled
  latch : s.follows = false → s.dol = true
  follow : s.follows = true → s.clkPort = true

theorem plays_accept {i : Instr} {s : State} (hinv : Inv s) (hidle : s.busy = false) (hrole : i.role = s.cfg.role) :
    Plays s [.host (encode i)] (acceptCommand (encode i) (orderPermits i s) s) [] ∧
      Accepted i (acceptCommand (encode i) (orderPermits i s) s) := by
  obtain ⟨hstep, hout, hport, -, -, -⟩ := hinv.idle hidle
  obtain ⟨hx, hcnt, hdir, hsr, hlatch⟩ := hout
  have hsettled := acceptCommand_settled (w := encode i) (permitted := orderPermits i s) hinv.settled
  have hdecode : decode s.cfg.role (encode i) = .ok i := by rw [decode_encode, if_pos hrole]
  have hwire : wireEvents s (acceptCommand (encode i) (orderPermits i s) s) = [] :=
    wireEvents_of_same_data (.inl (by simp [hx])) rfl
  have hplays := Plays.accept hidle hrole
  rw [lineUpdate_of_settled hsettled, hwire] at hplays
  exact ⟨hplays, ⟨rfl, hdecode⟩, rfl, rfl, hinv.clockOutput, hdir, hport, hsr, hsettled,
    hlatch, hinv.followReleases⟩

section
variable {i : Instr} {s : State}

theorem Accepted.clock (h : Accepted i s) (henv : s.envScl = true) : s.sclObs = s.clkPort := by
  simp [h.settled.1, State.ownScl, h.clkDir, henv]

/-- With the latch on the released pattern the data line is the peer's. -/
theorem Accepted.data (h : Accepted i s) (hdol : s.dol = true) : s.sdaObs = s.envSda := by
  obtain ⟨-, -, hsda⟩ := h.settled
  simp [hsda, State.ownSda, h.datPort, hdol]

theorem Accepted.latch_of_low (h : Accepted i s) (hlow : s.follows = true → s.envScl = false) : s.dol = true := by
  cases hf : s.follows with
  | false => exact h.latch hf
  | true =>
    obtain ⟨hclock, hlatch, -⟩ := h.settled
    simpa [h.sr] using hlatch (hclock.trans (low_of_peer (hlow hf)))

theorem Accepted.latch_of_data (h : Accepted i s) (hsda : s.sdaObs = true) : s.dol = true := by
  obtain ⟨-, -, hdata⟩ := h.settled
  have hlevel := hdata.symm.trans hsda
  simp only [State.ownSda, h.datDir, h.datPort] at hlevel
  simpa using (Bool.and_eq_true_iff.mp hlevel).1

end

/-! ### Steps with the clock low -/

theorem Accepted.pulled {i : Instr} {s : State} (h : Accepted i s) (hlow : s.follows = true → s.envScl = false) :
    ((!(s.clkDir && !s.follows)) && s.envScl) = false := by
  cases hf : s.follows with
  | false => simp [h.clkDir]
  | true => simp [hlow hf]

section
variable {i : Instr} {op : MicroOp} {s u v : State}

theorem Plays.lowStep (hruns : s.runs i) (hop : (programOf i)[s.cstep.toNat]? = some op) (hu : op.run s = .moved u)
    (hx : s.xstep = 0#4) (hlow : (u.ownScl && u.envScl) = false)
    (hv : { u with
      sclObs := false, dol := u.sr.getLsbD 7
      sdaObs := State.ownSda { u with dol := u.sr.getLsbD 7 } && u.envSda } = v) :
    Plays s [.engine] v [] := by
  subst hv
  have hplays := Plays.engine hruns (exec_moved hruns.1 rfl hop hu)
  rw [lineUpdate_low hlow, wireEvents_of_low (.inl (by simp [hx])) (.inr rfl)] at hplays
  exact hplays

end

/-! ### A byte and the answer to it -/

section
variable {i : Instr} {s : State}

/-- `s` after the transfer of a byte that the peer answers with the bit `nack`. -/
def byteAcked (s : State) (nack : Bool) : State :=
  { transferred .one s false nack (shiftBit 0xFF#8 nack) with cstep := s.cstep + 1#4 + 1#4 + 1#4 }

/-- The part common to the commands that send a byte: `XFER(8)`, `DAT_IN`, `XFER(1)`. -/
theorem plays_byte_acked {c : BitVec 4} {p : Byte} {nack : Bool} (hruns : s.runs i) (hc : s.cstep = c) (hx : s.xstep = 0#4)
    (hbyte : xferAt i c.toNat = some .eight) (hlisten : (programOf i)[(c + 1#4).toNat]? = some .datIn)
    (hbit : xferAt i (c + 1#4 + 1#4).toNat = some .one) (hlines : TransferLines s)
    (hlow : (s.ownScl && s.envScl) = false) (hdir : s.datDir = true) :
    Plays s (peerTransfer s.follows (wireBits p) ++ (engines 1 ++ peerTransfer s.follows [nack])) (byteAcked s nack)
      ((wireBits (s.sr &&& p)).map .bit ++ [.bit nack]) := by
  subst hc
  have hpull := pulled_between_bits hlines.drive
  let t := transferred .eight s false (p.getLsbD 0) (s.sr &&& p)
  have hbyte' : Plays s _ t _ := plays_sent_byte hruns hbyte hx hlines hlow hdir
  have hlisten' : Plays t [.engine] { t with cstep := t.cstep + 1#4, datDir := false, sdaObs := p.getLsbD 0 } [] :=
    Plays.lowStep (s := t) hruns hlisten rfl rfl hpull (by simp [t, transferred, advance, datIn, State.ownSda])
  have hbit' := plays_one_bit (s := { t with cstep := t.cstep + 1#4, datDir := false, sdaObs := p.getLsbD 0 }) (d := nack)
    hruns hbit rfl ⟨id, hlines.drive, nofun⟩ hpull
  exact hbyte'.append (hlisten'.append hbit')

theorem shiftBit_released (b : Bool) : shiftBit 0xFF#8 b = if b then 0xFF#8 else 0xFE#8 := by
  cases b <;> rfl

theorem byteAcked_sample (s : State) (nack : Bool) : (byteAcked s nack).tmp.getLsbD 0 = nack :=
  getLsbD_shiftBit 0xFF#8 nack 0

end

/-! ### C_WRITE and P_WRITE -/

/-- `s` after `CLK_LOW` and `LOAD_SR(d)`. -/
def byteLoaded (s : State) (d : Byte) : State :=
  { s with
    clkPort := s.follows, sr := d, cstep := 2#4, sclObs := false, dol := d.getLsbD 7, sdaObs := d.getLsbD 7 && s.envSda }

section
variable {i : Instr} {s : State} {d : Byte}

theorem plays_load (h : Accepted i s) (hclkLow : (programOf i)[0]? = some .clkLow)
    (hload : (programOf i)[1]? = some (.loadSr d)) (hlow : s.follows = true → s.envScl = false) :
    Plays s (engines 2) (byteLoaded s d) [] := by
  have hclkLow' : clkLow s = { s with clkPort := s.follows } := by
    cases hf : s.follows with
    | false => exact clkLow_of_drive hf
    | true => rw [clkLow_of_follow hf, ← h.follow hf]
  have hpull := h.pulled hlow
  have h0 : Plays s [.engine]
      { s with clkPort := s.follows, cstep := 1#4, sclObs := false, dol := true, sdaObs := s.envSda } [] :=
    Plays.lowStep h.runs (by rw [h.cstep]; exact hclkLow) (by rw [MicroOp.run, hclkLow']) h.xstep (by exact hpull)
      (by simp [advance, State.ownSda, h.cstep, h.sr, h.datPort])
  have h1 : Plays { s with clkPort := s.follows, cstep := 1#4, sclObs := false, dol := true, sdaObs := s.envSda } [.engine]
      (byteLoaded s d) [] :=
    Plays.lowStep h.runs hload rfl h.xstep hpull (by simp [byteLoaded, advance, loadSr, State.ownSda, h.datDir, h.datPort])
  exact h0.append h1

/-- C_WRITE and P_WRITE up to their last step. -/
theorem plays_write {follow : Bool} {p : Byte} {nack : Bool} (h : Accepted i s) (hf : s.follows = follow) (hi : i = .cWrite d ∨ i = .pWrite d)
    (hlow : s.follows = true → s.envScl = false) :
    Plays s (engines 2 ++ (peerTransfer follow (wireBits p) ++ (engines 1 ++ peerTransfer follow [nack])))
      (byteAcked (byteLoaded s d) nack) ((wireBits (d &&& p)).map .bit ++ [.bit nack]) := by
  subst hf
  have hlines : TransferLines (byteLoaded s d) := ⟨id, fun _ => h.clkDir, fun _ => ⟨h.datPort, id⟩⟩
  have hpull := h.pulled hlow
  obtain rfl | rfl := hi
  · exact (plays_load h rfl rfl hlow).append (plays_byte_acked h.runs rfl h.xstep rfl rfl rfl hlines hpull h.datDir)
  · exact (plays_load h rfl rfl hlow).append (plays_byte_acked h.runs rfl h.xstep rfl rfl rfl hlines hpull h.datDir)

end

theorem Plays.last {i : Instr} {s t : State} (hruns : s.runs i) (h : exec i s = .next t) (hx : s.xstep = 0#4)
    (hlow : s.sclObs = false) : Plays s [.engine] t [] := by
  have hplays := Plays.engine hruns h
  rw [wireEvents_of_low (.inl (by simp [hx])) (.inl hlow)] at hplays
  exact hplays

theorem peripheral_of_follows {s : State} (h : s.follows = true) : s.cfg.role = .peripheral :=
  (of_decide_eq_true h).1

/-- Settles O41: the byte, the ACK bit and the branch on it. -/
theorem cWriteWholeCommand : Obligations.CWriteWholeCommand := by
  unfold Obligations.CWriteWholeCommand
  intro d p nack s hinv hidle hrole hsched
  obtain ⟨haccept, h⟩ := plays_accept (i := .cWrite d) hinv hidle hrole.symm
  have hf := follows_of_controller hrole
  let a := acceptCommand (encode (.cWrite d)) (orderPermits (.cWrite d) s) s
  have hbyte := plays_write (s := a) (p := p) (nack := nack) h hf (.inl rfl) fun h => absurd (hf.symm.trans h) nofun
  have hlast := Plays.last (s := byteAcked (byteLoaded a d) nack) h.runs (exec_cWrite_branch h.runs.1 rfl) rfl rfl
  rw [byteAcked_sample] at hlast
  obtain ⟨hrun, htrace⟩ := (haccept.append (hbyte.append hlast)).runSched
    (hsched.trans (by simp [engines]))
  exact ⟨⟨_, hrun, rfl, rfl, rfl, rfl, rfl, rfl, rfl, shiftBit_released nack, hf, rfl, rfl, rfl⟩, by simpa using htrace⟩

/-- P_WRITE, from its acceptance to its end. -/
theorem plays_pWrite {follow : Bool} {d p : Byte} {nack : Bool} {s : State} (h : Accepted (.pWrite d) s)
    (hf : s.follows = follow) (hlow : s.follows = true → s.envScl = false) :
    Plays s ((engines 2 ++ (peerTransfer follow (wireBits p) ++ (engines 1 ++ peerTransfer follow [nack]))) ++ [.engine])
      (lineUpdate { byteAcked (byteLoaded s d) nack with
        pstate := if nack ∧ s.pstate = .dataExchange then .waitStart else s.pstate
        result := if nack then .nack else .ok
        rspValid := true, busy := false, cstep := 0#4, xstep := 0#4 })
      ((wireBits (d &&& p)).map .bit ++ [.bit nack]) := by
  have hlast := Plays.last (s := byteAcked (byteLoaded s d) nack) h.runs (exec_pWrite_branch h.runs.1 rfl) rfl rfl
  rw [byteAcked_sample] at hlast
  have hall := (plays_write (p := p) (nack := nack) h hf (.inr rfl) hlow).append hlast
  rw [List.append_nil] at hall
  exact hall

/-- Settles O47: as C_WRITE, in either clock mode. -/
theorem pWriteWholeCommand : Obligations.PWriteWholeCommand := by
  unfold Obligations.PWriteWholeCommand
  refine ⟨fun d p nack s hinv hidle hrole hf hsched => ?_, fun d p nack s hinv hidle hf henv hsched => ?_⟩
  · obtain ⟨haccept, h⟩ := plays_accept (i := .pWrite d) hinv hidle hrole.symm
    have hrest := plays_pWrite (p := p) (nack := nack) h hf fun h => absurd (hf.symm.trans h) nofun
    obtain ⟨hrun, htrace⟩ := (haccept.append hrest).runSched (hsched.trans (by simp [engines]))
    exact ⟨⟨_, hrun, rfl, rfl, rfl, rfl, rfl, rfl, rfl, shiftBit_released nack, hf, rfl, rfl⟩, htrace⟩
  · obtain ⟨haccept, h⟩ := plays_accept (i := .pWrite d) hinv hidle (peripheral_of_follows hf).symm
    have hrest := plays_pWrite (p := p) (nack := nack) h hf fun _ => henv
    obtain ⟨hrun, htrace⟩ := (haccept.append hrest).runSched (hsched.trans (by simp [engines]))
    exact ⟨⟨_, hrun, rfl, rfl, rfl, rfl, rfl, rfl, rfl, shiftBit_released nack, hf, rfl, rfl⟩, htrace⟩

end Sys2Proof.Machine
end

section
namespace Sys2Proof.Machine

/-! ### C_READ and P_READ -/

/-- `s` before the last step of a read: RDATA is the peer's byte `p`, and the block answered with `pattern` while the peer
drove `q`. -/
def readAcked (s : State) (p pattern : Byte) (q : Bool) : State :=
  { transferred .one s false q (shiftBit pattern (pattern.getLsbD 7 && q)) with rdata := p, cstep := 5#4 }

section
variable {i : Instr} {s : State}

theorem plays_listen {c : BitVec 4} (hruns : s.runs i) (hc : s.cstep = c) (hop : (programOf i)[c.toNat]? = some .datIn)
    (hx : s.xstep = 0#4) (hsettled : s.linesSettled) (hdata : s.sdaObs = s.envSda) :
    Plays s [.engine] { s with datDir := false, cstep := c + 1#4 } [] ∧
      State.linesSettled { s with datDir := false, cstep := c + 1#4 } := by
  subst hc
  obtain ⟨hscl, hdol, hsda⟩ := hsettled
  have hsettled' : State.linesSettled { s with datDir := false, cstep := s.cstep + 1#4 } := ⟨hscl, hdol, hdata⟩
  have hplays := Plays.engine hruns (exec_moved hruns.1 rfl hop rfl)
  have hv : lineUpdate (advance (datIn s)) = { s with datDir := false, cstep := s.cstep + 1#4 } :=
    lineUpdate_of_settled hsettled'
  rw [hv, wireEvents_of_same_data (.inl (by simp [hx])) (by rfl)] at hplays
  exact ⟨hplays, hsettled'⟩

/-- C_READ and P_READ up to their last step. -/
theorem plays_read {follow : Bool} {p pattern : Byte} {q : Bool} (h : Accepted i s) (hf : s.follows = follow)
    (hlow : s.follows = true → s.envScl = false) (hlisten : (programOf i)[0]? = some .datIn)
    (hbyte : xferAt i 1 = some .eight) (hsave : (programOf i)[2]? = some .saveRdata)
    (hload : (programOf i)[3]? = some (.loadSr pattern)) (hbit : xferAt i 4 = some .one) :
    ∃ ws, Plays s (engines 1 ++ (peerTransfer follow (wireBits p) ++ (engines 2 ++ peerTransfer follow [q])))
        (readAcked s p pattern q) (ws ++ ((wireBits p).map .bit ++ [.bit (pattern.getLsbD 7 && q)])) ∧
      ((s.ownScl && s.envScl) = false → ws = []) := by
  subst hf
  have hpull := pulled_between_bits fun _ => h.clkDir
  obtain ⟨hlisten', -⟩ := plays_listen h.runs h.cstep hlisten h.xstep h.settled (h.data (h.latch_of_low hlow))
  let u : State := { s with datDir := false, cstep := 0#4 + 1#4 }
  obtain ⟨det, ws, hbyte', hquiet⟩ := plays_received_byte (s := u) (d := p) h.runs hbyte h.xstep
    ⟨h.follow, fun _ => h.clkDir, nofun⟩ rfl
  let t := transferred .eight u det (p.getLsbD 0) p
  have hsave' : Plays t [.engine] { t with rdata := p, cstep := 3#4 } [] :=
    Plays.lowStep (s := t) h.runs hsave rfl rfl hpull
      (by simp [t, u, transferred, advance, saveRdata, State.ownSda, h.datPort])
  have hload' : Plays { t with rdata := p, cstep := 3#4 } [.engine]
      { t with
        rdata := p, sr := pattern, cstep := 4#4
        dol := pattern.getLsbD 7, sdaObs := pattern.getLsbD 7 && p.getLsbD 0 } [] :=
    Plays.lowStep (s := { t with rdata := p, cstep := 3#4 }) h.runs hload rfl rfl hpull
      (by simp [t, u, transferred, advance, loadSr, State.ownSda, h.datPort])
  have hbit' := plays_one_bit (d := q)
    (s := { t with
      rdata := p, sr := pattern, cstep := 4#4
      dol := pattern.getLsbD 7, sdaObs := pattern.getLsbD 7 && p.getLsbD 0 })
    h.runs hbit rfl ⟨id, fun _ => h.clkDir, fun _ => ⟨h.datPort, id⟩⟩ hpull
  refine ⟨ws, ?_, fun hl => (hquiet (.inl hl)).2⟩
  have hall := hlisten'.append (hbyte'.append ((hsave'.append hload').append hbit'))
  simp only [List.append_assoc, List.nil_append] at hall
  exact hall

end

/-- Settles O42: the peer's byte, then the bit that `more` gives. -/
theorem cReadWholeCommand : Obligations.CReadWholeCommand := by
  unfold Obligations.CReadWholeCommand
  intro more p q s hinv hidle hrole hsched
  obtain ⟨haccept, h⟩ := plays_accept (i := .cRead more) hinv hidle hrole.symm
  have hf := follows_of_controller hrole
  let a := acceptCommand (encode (.cRead more)) (orderPermits (.cRead more) s) s
  obtain ⟨ws, hread, hquiet⟩ := plays_read (s := a) (p := p) (q := q) h hf (fun h => absurd (hf.symm.trans h) nofun)
    rfl rfl rfl rfl rfl
  obtain ⟨-, -, -, hend⟩ := cReadSteps more (readAcked a p (readPattern more) q) h.runs.1 hrole
  have hlast := Plays.last (s := readAcked a p (readPattern more) q) h.runs (hend rfl) rfl rfl
  obtain ⟨hrun, htrace⟩ := (haccept.append (hread.append hlast)).runSched (hsched.trans (by simp [engines]))
  have htmp : shiftBit (readPattern more) ((readPattern more).getLsbD 7 && q) =
      if more then 0x00#8 else if q then 0xFF#8 else 0xFE#8 := by
    cases more <;> cases q <;> rfl
  have hlevel : ((readPattern more).getLsbD 7 && q) = (!more && q) := by cases more <;> rfl
  refine ⟨⟨_, hrun, rfl, rfl, rfl, rfl, rfl, rfl, rfl, htmp, hf, rfl, rfl, rfl⟩, fun hclk => ?_⟩
  rw [htrace, hquiet (low_of_pull h.clkDir hclk), hlevel]
  simp

theorem shiftBit_ack (q : Bool) : shiftBit ackPattern (ackPattern.getLsbD 7 && q) = 0x00#8 := by
  cases q <;> rfl

/-- P_READ, from its acceptance to its end. -/
theorem plays_pRead {follow : Bool} {p : Byte} {q : Bool} {s : State} (h : Accepted .pRead s)
    (hf : s.follows = follow) (hlow : s.follows = true → s.envScl = false) :
    ∃ ws, Plays s
        ((engines 1 ++ (peerTransfer follow (wireBits p) ++ (engines 2 ++ peerTransfer follow [q]))) ++ [.engine])
        (lineUpdate { readAcked s p ackPattern q with
          result := .ok, rspValid := true, busy := false, cstep := 0#4, xstep := 0#4 })
        (ws ++ ((wireBits p).map .bit ++ [.bit false])) ∧
      ((s.ownScl && s.envScl) = false → ws = []) := by
  obtain ⟨ws, hread, hquiet⟩ := plays_read (p := p) (pattern := ackPattern) (q := q) h hf hlow rfl rfl rfl rfl rfl
  obtain ⟨-, -, -, hend⟩ := pReadSteps (readAcked s p ackPattern q) h.runs.1
  have hall := hread.append (Plays.last h.runs (hend rfl) rfl rfl)
  rw [List.append_nil] at hall
  exact ⟨ws, hall, hquiet⟩

/-- Settles O46: as C_READ with the ACK pattern, in either clock mode. -/
theorem pReadWholeCommand : Obligations.PReadWholeCommand := by
  unfold Obligations.PReadWholeCommand
  refine ⟨fun p q s hinv hidle hrole hf hsched => ?_, fun p q s hinv hidle hf henv hsched => ?_⟩
  · obtain ⟨haccept, h⟩ := plays_accept (i := .pRead) hinv hidle hrole.symm
    obtain ⟨ws, hrest, hquiet⟩ := plays_pRead (p := p) (q := q) h hf fun h => absurd (hf.symm.trans h) nofun
    obtain ⟨hrun, htrace⟩ := (haccept.append hrest).runSched (hsched.trans (by simp [engines]))
    refine ⟨⟨_, hrun, rfl, rfl, rfl, rfl, rfl, rfl, rfl, shiftBit_ack q, hf, rfl, rfl⟩, fun hclk => ?_⟩
    rw [htrace, hquiet (low_of_pull h.clkDir hclk)]
    rfl
  · obtain ⟨haccept, h⟩ := plays_accept (i := .pRead) hinv hidle (peripheral_of_follows hf).symm
    obtain ⟨ws, hrest, hquiet⟩ := plays_pRead (p := p) (q := q) h hf fun _ => henv
    obtain ⟨hrun, htrace⟩ := (haccept.append hrest).runSched (hsched.trans (by simp [engines]))
    refine ⟨⟨_, hrun, rfl, rfl, rfl, rfl, rfl, rfl, rfl, shiftBit_ack q, hf, rfl, rfl⟩, ?_⟩
    rw [htrace, hquiet (low_of_peer henv)]
    rfl

end Sys2Proof.Machine
end

section
namespace Sys2Proof.Machine

/-! ### The micro-operations of the start and the stop, one equation each -/

section
variable {s : State}

@[simp] theorem MicroOp.run_clkRel :
    MicroOp.clkRel.run s =
      .moved { s with clkPort := if s.follows then s.clkPort else true, cstep := s.cstep + 1#4 } := rfl

@[simp] theorem MicroOp.run_clkLow :
    MicroOp.clkLow.run s =
      .moved { s with clkPort := if s.follows then s.clkPort else false, cstep := s.cstep + 1#4 } := rfl

@[simp] theorem MicroOp.run_datLow : MicroOp.datLow.run s = .moved { s with datPort := false, cstep := s.cstep + 1#4 } := rfl

@[simp] theorem MicroOp.run_datRel : MicroOp.datRel.run s = .moved { s with datPort := true, cstep := s.cstep + 1#4 } := rfl

@[simp] theorem MicroOp.run_waitSclHigh :
    MicroOp.waitSclHigh.run s = if s.sclObs then .moved { s with cstep := s.cstep + 1#4 } else .holds := rfl

@[simp] theorem MicroOp.run_delay (name : DelayName) :
    (MicroOp.delay name).run s = .moved { s with cstep := s.cstep + 1#4 } := rfl

@[simp] theorem MicroOp.run_setC (c : CState) :
    (MicroOp.set (.setC c)).run s = .moved { s with cstate := c, cstep := s.cstep + 1#4 } := rfl

@[simp] theorem MicroOp.run_setDir (b : Bool) :
    (MicroOp.set (.setDir b)).run s = .moved { s with xdir := b, cstep := s.cstep + 1#4 } := rfl

@[simp] theorem MicroOp.run_loadSr (v : Byte) :
    (MicroOp.loadSr v).run s = .moved { s with sr := v, cstep := s.cstep + 1#4 } := rfl

@[simp] theorem MicroOp.run_finish (code : ResultCode) :
    (MicroOp.finish code).run s = .moved { s with
      result := code, rspValid := true, busy := false, cstep := 0#4, xstep := 0#4 } := rfl

@[simp] theorem MicroOp.run_checkStart :
    (MicroOp.checkStart startFailed).run s = .moved (if s.startDet then { s with cstep := s.cstep + 1#4 } else { s with
      cstate := .idle, result := .startNotDetected, rspValid := true, busy := false, cstep := 0#4, xstep := 0#4 }) := rfl

end

/-! ### C_STOP, and C_START and C_RSTART up to their start check, evaluated with a peer that releases the clock -/

section
variable {f : Bool} {a : Addr} {s : State}

/-- `s` after C_STOP, both lines released by the peer. -/
def stopped (s : State) : State :=
  { s with
    cstate := .idle, clkPort := true, datPort := true, dol := true, sclObs := true, sdaObs := true
    startDet := s.startDet || s.clkPort
    result := .ok, rspValid := true, busy := false, cstep := 0#4, xstep := 0#4 }

/-- With the clock high `DAT_LOW` makes a start, and then `DAT_REL` the stop. -/
theorem engineRun_cStop (h : Accepted .cStop s) (hrole : s.cfg.role = .controller) (hscl : s.envScl = true)
    (hsda : s.envSda = true) :
    engineRun cStopProgram 8 s = some (stopped s, if s.clkPort then [.start, .stop] else [.stop]) := by
  have hdol := h.latch (follows_of_controller hrole)
  have hclock := h.clock hscl
  have hdata := h.data hdol
  cases hclk : s.clkPort <;>
    simp [stopped, engineRun, engineStep, cStopProgram, lineUpdate, startSeen, wireEvents, sampledBit, State.ownScl, State.ownSda,
      State.follows, hrole, hscl, hsda, hdol, hclock, hdata, hclk, h.runs.1, h.cstep, h.xstep, h.clkDir, h.datDir,
      h.datPort, h.sr]

/-- `s` after C_START's start check, both lines released by the peer. -/
def startChecked (s : State) : State :=
  { s with cstate := .start, clkPort := false, sclObs := false, sdaObs := true, startDet := true, cstep := 7#4 }

/-- With the data line released, C_START's own start passes the check. -/
theorem engineRun_cStart (h : Accepted (.cStart f a) s) (hrole : s.cfg.role = .controller) (hscl : s.envScl = true)
    (hsda : s.envSda = true) :
    engineRun (cStartProgram f a) 7 s = some (startChecked s, [.start]) := by
  have hdol := h.latch (follows_of_controller hrole)
  have hclock := h.clock hscl
  have hdata := h.data hdol
  simp [startChecked, engineRun, engineStep, cStartProgram, lineUpdate, startSeen, wireEvents, sampledBit, State.ownScl,
    State.ownSda, State.follows, hrole, hscl, hsda, hdol, hclock, hdata, h.runs.1, h.cstep, h.xstep, h.clkDir, h.datDir,
    h.datPort, h.sr]

/-- With the data line held low there is no fall to detect, and the check fails. -/
theorem engineRun_cStart_fails (h : Accepted (.cStart f a) s) (hrole : s.cfg.role = .controller) (hscl : s.envScl = true)
    (hsda : s.envSda = false) (hdet : s.startDet = false) :
    engineRun (cStartProgram f a) 7 s = some ({ s with
      cstate := .idle, clkPort := false, sclObs := false, sdaObs := false
      result := .startNotDetected, rspValid := true, busy := false, cstep := 0#4, xstep := 0#4 }, []) := by
  have hdol := h.latch (follows_of_controller hrole)
  have hclock := h.clock hscl
  have hdata := h.data hdol
  simp [engineRun, engineStep, cStartProgram, lineUpdate, startSeen, wireEvents, sampledBit, State.ownScl, State.ownSda,
    State.follows, hrole, hscl, hsda, hdet, hdol, hclock, hdata, h.runs.1, h.cstep, h.xstep, h.clkDir, h.datDir, h.datPort,
    h.sr]

/-- C_RSTART raises the clock and pulls it again, which makes no start of its own. -/
theorem engineRun_cRstart (h : Accepted (.cRstart f a) s) (hrole : s.cfg.role = .controller) (hscl : s.envScl = true) :
    engineRun (cRstartProgram f a) 6 s = some (if s.startDet
      then { s with cstate := .start, clkPort := false, sclObs := false, cstep := 6#4 }
      else { s with
        cstate := .idle, clkPort := false, sclObs := false
        result := .startNotDetected, rspValid := true, busy := false, cstep := 0#4, xstep := 0#4 }, []) := by
  have hdol := h.latch (follows_of_controller hrole)
  have hclock := h.clock hscl
  have hdata := h.data hdol
  cases hdet : s.startDet <;> cases hsda : s.envSda <;>
    simp [engineRun, engineStep, cRstartProgram, lineUpdate, startSeen, wireEvents, sampledBit, State.ownScl, State.ownSda,
      State.follows, hrole, hscl, hsda, hdet, hdol, hclock, hdata, h.runs.1, h.cstep, h.xstep, h.clkDir, h.datDir, h.datPort, h.sr]

end

/-! ### The frame, after the start check -/

/-- The part common to C_START and C_RSTART, from step `c`: the frame is sent, and its ACK bit ends the command. -/
structure SendsFrame (i : Instr) (f : Bool) (a : Addr) (c : BitVec 4) : Prop where
  pull : (programOf i)[c.toNat]? = some .clkLow
  state : (programOf i)[(c + 1#4).toNat]? = some (.set (.setC .address))
  direction : (programOf i)[(c + 1#4 + 1#4).toNat]? = some (.set (.setDir f))
  load : (programOf i)[(c + 1#4 + 1#4 + 1#4).toNat]? = some (.loadSr (frame a f))
  byte : xferAt i (c + 1#4 + 1#4 + 1#4 + 1#4).toNat = some .eight
  listen : (programOf i)[(c + 1#4 + 1#4 + 1#4 + 1#4 + 1#4).toNat]? = some .datIn
  bit : xferAt i (c + 1#4 + 1#4 + 1#4 + 1#4 + 1#4 + 1#4).toNat = some .one
  branch : (programOf i)[(c + 1#4 + 1#4 + 1#4 + 1#4 + 1#4 + 1#4 + 1#4).toNat]? = some frameAcked

theorem sendsFrame_cStart (f : Bool) (a : Addr) : SendsFrame (.cStart f a) f a 7#4 :=
  ⟨rfl, rfl, rfl, rfl, rfl, rfl, rfl, rfl⟩

theorem sendsFrame_cRstart (f : Bool) (a : Addr) : SendsFrame (.cRstart f a) f a 6#4 :=
  ⟨rfl, rfl, rfl, rfl, rfl, rfl, rfl, rfl⟩

/-- `s` with the frame loaded, at the XFER step. -/
def frameLoaded (s : State) (f : Bool) (a : Addr) : State :=
  { s with
    cstate := .address, xdir := f, sr := frame a f, cstep := s.cstep + 1#4 + 1#4 + 1#4 + 1#4
    dol := (frame a f).getLsbD 7, sdaObs := (frame a f).getLsbD 7 && s.envSda }

theorem plays_frame {i : Instr} {f nack : Bool} {a : Addr} {c : BitVec 4} {p : Byte} {s : State} (hi : SendsFrame i f a c)
    (hruns : s.runs i) (hc : s.cstep = c) (hx : s.xstep = 0#4) (hf : s.follows = false) (hclkDir : s.clkDir = true)
    (hclk : s.clkPort = false) (hdir : s.datDir = true) (hport : s.datPort = true) (hsr : s.sr = 0xFF#8)
    (hscl : s.sclObs = false) (hdol : s.dol = true) (hsda : s.sdaObs = s.envSda) :
    Plays s (engines 4 ++ ((peerTransfer false (wireBits p) ++ (engines 1 ++ peerTransfer false [nack])) ++ [.engine]))
      (lineUpdate { byteAcked (frameLoaded s f a) nack with
        cstate := if nack then .waitStop else .data
        result := if nack then .nack else .ok
        rspValid := true, busy := false, cstep := 0#4, xstep := 0#4 })
      ((wireBits (frame a f &&& p)).map .bit ++ [.bit nack]) := by
  subst hc
  have hlow := low_of_pull hclkDir hclk
  have h0 : Plays s [.engine] { s with cstep := s.cstep + 1#4 } [] :=
    Plays.lowStep hruns hi.pull MicroOp.run_clkLow hx (by simp [State.ownScl, hf, hclkDir])
      (by simp [State.ownSda, hf, hclk, hport, hsr, hscl, hdol, hsda])
  have h1 : Plays { s with cstep := s.cstep + 1#4 } [.engine]
      { s with cstate := .address, cstep := s.cstep + 1#4 + 1#4 } [] :=
    Plays.lowStep hruns hi.state (MicroOp.run_setC _) hx hlow (by simp [State.ownSda, hport, hsr, hscl, hdol, hsda])
  have h2 : Plays { s with cstate := .address, cstep := s.cstep + 1#4 + 1#4 } [.engine]
      { s with cstate := .address, xdir := f, cstep := s.cstep + 1#4 + 1#4 + 1#4 } [] :=
    Plays.lowStep hruns hi.direction (MicroOp.run_setDir _) hx hlow (by simp [State.ownSda, hport, hsr, hscl, hdol, hsda])
  have h3 : Plays { s with cstate := .address, xdir := f, cstep := s.cstep + 1#4 + 1#4 + 1#4 } [.engine]
      (frameLoaded s f a) [] :=
    Plays.lowStep hruns hi.load (MicroOp.run_loadSr _) hx hlow (by simp [frameLoaded, State.ownSda, hport, hscl, hdir])
  have hbyte := plays_byte_acked (s := frameLoaded s f a) (p := p) (nack := nack) hruns rfl hx hi.byte hi.listen hi.bit
      (transferLines_of_drive hf hclkDir fun _ => ⟨hport, hclk⟩) hlow hdir
  rw [show (frameLoaded s f a).follows = false from hf] at hbyte
  have hlast := Plays.last (s := byteAcked (frameLoaded s f a) nack) hruns (exec_frameAcked hruns.1 rfl hi.branch) rfl rfl
  rw [byteAcked_sample] at hlast
  have hall := h0.append (h1.append (h2.append (h3.append (hbyte.append hlast))))
  rw [List.append_nil] at hall
  exact hall

/-! ### The whole commands -/

theorem plays_cStart {f nack : Bool} {a : Addr} {p : Byte} {s : State} (h : Accepted (.cStart f a) s)
    (hrole : s.cfg.role = .controller) (hscl : s.envScl = true) (hsda : s.envSda = true) :
    Plays s (engines 7) (startChecked s) [.start] ∧
      Plays (startChecked s)
        (engines 4 ++ ((peerTransfer false (wireBits p) ++ (engines 1 ++ peerTransfer false [nack])) ++ [.engine]))
        (lineUpdate { byteAcked (frameLoaded (startChecked s) f a) nack with
          cstate := if nack then .waitStop else .data
          result := if nack then .nack else .ok
          rspValid := true, busy := false, cstep := 0#4, xstep := 0#4 })
        ((wireBits (frame a f &&& p)).map .bit ++ [.bit nack]) := by
  have hf := follows_of_controller hrole
  exact ⟨Plays.engines h.runs.2 (engineRun_cStart h hrole hscl hsda),
    plays_frame (sendsFrame_cStart f a) h.runs rfl h.xstep hf h.clkDir rfl h.datDir h.datPort h.sr rfl (h.latch hf) hsda.symm⟩

theorem engines_add (j k : Nat) : engines (j + k) = engines j ++ engines k :=
  List.replicate_add j k _

/-- Settles O39: the start, the frame and its ACK bit. -/
theorem cStartWholeCommand : Obligations.CStartWholeCommand := by
  unfold Obligations.CStartWholeCommand
  intro f a p nack s hinv hidle hrole hscl hsda hsched
  obtain ⟨haccept, h⟩ := plays_accept (i := .cStart f a) hinv hidle hrole.symm
  obtain ⟨hstart, hframe⟩ := plays_cStart (p := p) (nack := nack) h hrole hscl hsda
  obtain ⟨hrun, htrace⟩ := (haccept.append (hstart.append hframe)).runSched
    (hsched.trans (by rw [engines_add 7 4]; simp [engines]))
  exact ⟨⟨_, hrun, rfl, rfl, rfl, rfl, rfl, rfl, rfl, rfl, shiftBit_released nack, follows_of_controller hrole,
    h.datPort, rfl, rfl, Bool.or_false _, rfl⟩, htrace⟩

/-- Settles O40: by START_DET at the check. -/
theorem cRstartWholeCommand : Obligations.CRstartWholeCommand := by
  unfold Obligations.CRstartWholeCommand
  refine ⟨fun f a s hinv hidle hrole hscl hdet hsched => ?_, fun f a p nack s hinv hidle hrole hscl hdet hsched => ?_⟩
  all_goals
    obtain ⟨haccept, h⟩ := plays_accept (i := .cRstart f a) hinv hidle hrole.symm
    have hcheck := Plays.engines h.runs.2 (engineRun_cRstart h hrole hscl)
  · rw [if_neg (by simp [acceptCommand, hdet])] at hcheck
    obtain ⟨hrun, htrace⟩ := (haccept.append hcheck).runSched hsched
    exact ⟨⟨_, hrun, rfl, rfl, rfl, rfl, rfl, h.sr, rfl, hdet⟩, htrace⟩
  · rw [if_pos (by simp [acceptCommand, hdet])] at hcheck
    have hf := follows_of_controller hrole
    have hframe := plays_frame (p := p) (nack := nack) (sendsFrame_cRstart f a)
      (s := { acceptCommand (encode (.cRstart f a)) (orderPermits (.cRstart f a) s) s with
        cstate := .start, clkPort := false, sclObs := false, cstep := 6#4 })
      h.runs rfl h.xstep hf h.clkDir rfl h.datDir h.datPort h.sr rfl (h.latch hf) (h.data (h.latch hf))
    obtain ⟨hrun, htrace⟩ := (haccept.append (hcheck.append hframe)).runSched
      (hsched.trans (by rw [engines_add 6 4]; simp [engines]))
    exact ⟨⟨_, hrun, rfl, rfl, rfl, rfl, rfl, rfl, hf, rfl⟩, htrace⟩

/-- Settles O43: the eight steps. -/
theorem cStopWholeCommand : Obligations.CStopWholeCommand := by
  unfold Obligations.CStopWholeCommand
  intro s hinv hidle hrole hscl hsda hsched
  obtain ⟨haccept, h⟩ := plays_accept (i := .cStop) hinv hidle hrole.symm
  have hstop := Plays.engines h.runs.2 (engineRun_cStop h hrole hscl hsda)
  obtain ⟨hrun, htrace⟩ := (haccept.append hstop).runSched hsched
  exact ⟨⟨_, hrun, rfl, rfl, rfl, rfl, rfl, rfl, rfl, rfl, rfl, rfl, rfl, rfl, rfl, rfl, rfl, Bool.or_false _, rfl⟩, htrace⟩

/-- Settles O35: the check's two branches, and C_START with the data line held low. -/
theorem startNotDetectedResult : Obligations.StartNotDetectedResult := by
  unfold Obligations.StartNotDetectedResult
  refine ⟨fun f a s t hbusy hcheck => ?_, fun f a s hinv hidle hrole hscl hsda hdet hsched => ?_⟩
  · have hfails (h : s.startDet = false) : t = lineUpdate (startFailed.run s) := by
      obtain ⟨hc, ht⟩ | ⟨hc, ht⟩ := hcheck <;>
        exact (Host.Outcome.next.inj ((exec_checkStart_fails hbusy h hc rfl).symm.trans ht)).symm
    have hpasses (h : s.startDet = true) : t = lineUpdate { s with cstep := s.cstep + 1#4 } := by
      obtain ⟨hc, ht⟩ | ⟨hc, ht⟩ := hcheck <;>
        exact (Host.Outcome.next.inj ((exec_checkStart_passes hbusy h rfl (by rw [hc]; rfl)).symm.trans ht)).symm
    refine ⟨fun h => ?_, fun h => ?_⟩
    · rw [hfails h]
      exact ⟨rfl, rfl, rfl, rfl, rfl, rfl⟩
    · rw [hpasses h]
      exact ⟨hbusy, rfl⟩
  · obtain ⟨haccept, h⟩ := plays_accept (i := .cStart f a) hinv hidle hrole.symm
    have hfails := Plays.engines h.runs.2 (engineRun_cStart_fails h hrole hscl hsda hdet)
    obtain ⟨hrun, htrace⟩ := (haccept.append hfails).runSched hsched
    exact ⟨_, hrun, rfl, rfl, rfl, rfl, rfl, h.datPort, rfl, rfl, htrace⟩

/-! ### A C_START after a C_STOP -/

theorem run_keeps_inv {k : Nat} {s t : State} (h : Inv s) (hrun : Host.Core.run core k s = .next t) : Inv t := by
  induction k generalizing s with
  | zero => exact Host.Outcome.next.inj hrun ▸ h
  | succ k ih =>
    obtain ⟨u, hstep, hu⟩ := everyStepKeepsInvariant s h
    exact ih hu ((run_succ_next hstep).symm.trans hrun)

theorem Plays.inv {s t : State} {l : List Event} {ws : List WireEvent} (h : Plays s l t ws) (hs : Inv s) : Inv t :=
  (run_keeps_inv (hs.sched _) (h []).1).sched t.sched

theorem Plays.run {s t : State} {l rest : List Event} {ws : List WireEvent} (h : Plays s l t ws)
    (hs : s.sched = l ++ rest) : Host.Core.run core l.length s = .next { t with sched := rest } := by
  have hrun := (h rest).1
  rw [← hs] at hrun
  exact hrun

/-- Settles O44: C_STOP leaves an idle block on released lines, from which C_START runs. -/
theorem stopThenStart : Obligations.StopThenStart := by
  unfold Obligations.StopThenStart
  intro f a p nack s hinv hidle hrole hscl hsda hsched
  obtain ⟨haccept, h⟩ := plays_accept (i := .cStop) hinv hidle hrole.symm
  have hstop := haccept.append (Plays.engines h.runs.2 (engineRun_cStop h hrole hscl hsda))
  obtain ⟨haccept', h'⟩ := plays_accept (i := .cStart f a) (hstop.inv hinv) rfl hrole.symm
  obtain ⟨hstart, hframe⟩ := plays_cStart (p := p) (nack := nack) h' hrole hscl hsda
  have hchecked := hstop.append (haccept'.append hstart)
  have hall : s.sched = ([.host (encode .cStop)] ++ engines 8 ++ ([.host (encode (.cStart f a))] ++ engines 7)) ++
      (engines 4 ++ ((peerTransfer false (wireBits p) ++ (engines 1 ++ peerTransfer false [nack])) ++ [.engine])) := by
    rw [hsched, engines_add 7 4]
    simp [engines]
  obtain ⟨hrun, htrace⟩ := (hchecked.append hframe).runSched hall
  refine ⟨⟨_, hstop.run hsched, rfl, rfl, rfl⟩, ⟨_, hchecked.run hall, h'.runs, rfl, rfl⟩,
    ⟨_, hrun, rfl, rfl, rfl, rfl, rfl⟩, ?_⟩
  rw [htrace, List.nil_append, List.nil_append, List.append_assoc]
  rfl

end Sys2Proof.Machine
end

section
namespace Sys2Proof.Machine

/-! ### P_START -/

section
variable {s : State}

@[simp] theorem MicroOp.run_setP (p : PState) :
    (MicroOp.set (.setP p)).run s = .moved { s with pstate := p, cstep := s.cstep + 1#4 } := rfl

@[simp] theorem MicroOp.run_waitStartDet :
    MicroOp.waitStartDet.run s = if s.startDet then .moved { s with cstep := s.cstep + 1#4 } else .holds := rfl

@[simp] theorem MicroOp.run_datIn : MicroOp.datIn.run s = .moved { s with datDir := false, cstep := s.cstep + 1#4 } := rfl

@[simp] theorem MicroOp.run_saveRdata :
    MicroOp.saveRdata.run s = .moved { s with rdata := s.tmp, cstep := s.cstep + 1#4 } := rfl

end

section
variable {own : Addr} {s : State}

/-- `s` at P_START's first transfer, after the peer has made a start on released lines. -/
def startMade (s : State) : State :=
  { s with
    pstate := .matchAddress, envSda := false, sdaObs := false, startDet := true, datDir := false, cstep := 4#4 }

/-- `s` with the frame `p` captured and saved, the clock low. -/
def frameCaptured (s : State) (det : Bool) (p : Byte) : State :=
  { transferred .eight (startMade s) det (p.getLsbD 0) p with rdata := p, cstep := 6#4 }

/-- P_START before its last transfer: the frame matched, and the ACK pattern is loaded. -/
def addressed (s : State) (det : Bool) (p : Byte) : State :=
  { frameCaptured s det p with
    pstate := .ackAddress, xdir := p.getLsbD 0, sr := ackPattern, dol := false, sdaObs := false, cstep := 8#4 }

theorem plays_await (h : Accepted (.pStart own) s) (hclk : s.clkPort = true) (hscl : s.envScl = true)
    (hsda : s.envSda = true) (hdol : s.dol = true) :
    Plays s ([.engine] ++ ([.peer true false] ++ engines 3)) (startMade s) [.start] ∧ (startMade s).linesSettled := by
  have hclock := (h.clock hscl).trans hclk
  have hdata := (h.data hdol).trans hsda
  have hwait : engineRun (pStartProgram own) 1 s = some ({ s with pstate := .waitStart, cstep := 1#4 }, []) := by
    simp [engineRun, engineStep, pStartProgram, lineUpdate, startSeen, wireEvents, sampledBit, State.ownScl, State.ownSda,
      hscl, hsda, hdol, hclk, hclock, hdata, h.runs.1, h.cstep, h.xstep, h.datPort]
  have hpeer : Plays { s with pstate := .waitStart, cstep := 1#4 } [.peer true false]
      { s with pstate := .waitStart, envSda := false, sdaObs := false, startDet := true, cstep := 1#4 } [.start] :=
    Plays.peerTo
      (by simp [setPeer, lineUpdate, startSeen, State.ownScl, State.ownSda, hscl, hclk, hclock, hdata])
      (by simp [wireEvents, sampledBit, hclock, hdata, h.xstep])
  have hstart : engineRun (pStartProgram own) 3
      { s with pstate := .waitStart, envSda := false, sdaObs := false, startDet := true, cstep := 1#4 } =
        some (startMade s, []) := by
    simp [startMade, engineRun, engineStep, pStartProgram, lineUpdate, startSeen, wireEvents, sampledBit, State.ownScl,
      State.ownSda, hscl, hclk, hclock, h.runs.1, h.xstep]
  exact ⟨(Plays.engines h.runs.2 hwait).append (hpeer.append (Plays.engines h.runs.2 hstart)),
    h.settled.1, fun hlow => absurd (hclock.symm.trans hlow) nofun, rfl⟩

/-- P_START from its acceptance to the check of the frame. Where the block drives the clock, a frame whose first bit is 1
would make the data line rise with the clock high. -/
theorem plays_capture {follow : Bool} {p : Byte} (h : Accepted (.pStart own) s) (hf : s.follows = follow)
    (hclk : s.clkPort = true) (hscl : s.envScl = true) (hsda : s.envSda = true) (hdol : s.dol = true) :
    ∃ det ws, Plays s
        (([.engine] ++ ([.peer true false] ++ engines 3)) ++ (peerTransfer follow (wireBits p) ++ [.engine]))
        (frameCaptured s det p) ([.start] ++ (ws ++ (wireBits p).map .bit)) ∧
      (follow = true ∨ p.getLsbD 7 = false → ws = []) := by
  subst hf
  obtain ⟨hawait, hsettled⟩ := plays_await h hclk hscl hsda hdol
  obtain ⟨det, ws, hbyte, hquiet⟩ := plays_received_byte (s := startMade s) (d := p) h.runs rfl h.xstep
    ⟨h.follow, fun _ => h.clkDir, nofun⟩ rfl
  have hsave : Plays (transferred .eight (startMade s) det (p.getLsbD 0) p) [.engine] (frameCaptured s det p) [] :=
    Plays.lowStep (s := transferred .eight (startMade s) det (p.getLsbD 0) p) h.runs rfl MicroOp.run_saveRdata rfl
      (pulled_between_bits fun _ => h.clkDir)
      (by simp [frameCaptured, transferred, startMade, State.ownSda, h.datPort])
  have hall := hawait.append (hbyte.append hsave)
  rw [List.append_nil] at hall
  exact ⟨det, ws, hall, fun hp => (hquiet (.inr ⟨hsettled, hp.imp_right fun h7 => ⟨rfl, h7.symm⟩⟩)).2⟩

/-- A frame that matches is ACKed, whatever the peer drives. -/
theorem plays_match {follow det q : Bool} {p : Byte} (h : Accepted (.pStart own) s) (hf : s.follows = follow)
    (hmatch : addressMatch s.cfg.matchMode p own = true) :
    Plays (frameCaptured s det p) (engines 2 ++ (peerTransfer follow [q] ++ engines 2))
      { transferred .one (addressed s det p) false q 0x00#8 with
        pstate := .dataExchange, result := .ok, rspValid := true, busy := false, cstep := 0#4 }
      [.bit false] := by
  subst hf
  have hlow := pulled_between_bits (s := s) fun _ => h.clkDir
  have hbranch : Plays (frameCaptured s det p) [.engine]
      { frameCaptured s det p with pstate := .ackAddress, xdir := p.getLsbD 0, cstep := 7#4 } [] :=
    Plays.lowStep h.runs rfl (by exact congrArg MicroResult.moved (if_pos hmatch)) rfl (by exact hlow)
      (by simp [frameCaptured, transferred, startMade, State.ownSda, h.datPort, ActionList.run, GuardedSetting.apply,
        Setting.apply, setP, setDir, advance])
  have hload : Plays { frameCaptured s det p with pstate := .ackAddress, xdir := p.getLsbD 0, cstep := 7#4 } [.engine]
      (addressed s det p) [] :=
    Plays.lowStep h.runs rfl (MicroOp.run_loadSr _) rfl (by exact hlow)
      (by simp [addressed, frameCaptured, transferred, startMade, State.ownSda, h.datPort, ackPattern])
  let t := transferred .one (addressed s det p) false q 0x00#8
  have hbit : Plays (addressed s det p) (peerTransfer s.follows [q]) t [.bit false] := by
    have hplays := plays_one_bit (s := addressed s det p) (d := q) h.runs rfl rfl
      ⟨id, fun _ => h.clkDir, fun _ => ⟨h.datPort, id⟩⟩ hlow
    have hdir : (addressed s det p).datDir = true := rfl
    have hsr : (addressed s det p).sr = 0x00#8 := rfl
    have hlevel : wireLevel true 0x00#8 q = false := rfl
    have htmp : shiftBit 0x00#8 false = 0x00#8 := rfl
    rw [hdir, hsr, hlevel, htmp] at hplays
    exact hplays
  have hset : Plays t [.engine] { t with pstate := .dataExchange, cstep := 10#4 } [] :=
    Plays.lowStep (s := t) h.runs rfl (MicroOp.run_setP _) rfl (by exact hlow)
      (by simp [t, addressed, frameCaptured, transferred, startMade, State.ownSda, h.datPort])
  have hfinish : Plays { t with pstate := .dataExchange, cstep := 10#4 } [.engine]
      { t with pstate := .dataExchange, result := .ok, rspValid := true, busy := false, cstep := 0#4 } [] :=
    Plays.lowStep (s := { t with pstate := .dataExchange, cstep := 10#4 }) h.runs rfl (MicroOp.run_finish _) rfl
      (by exact hlow) (by simp [t, addressed, frameCaptured, transferred, startMade, State.ownSda, h.datPort])
  exact (hbranch.append hload).append (hbit.append (hset.append hfinish))

/-- A frame that does not match ends the command at once. -/
theorem plays_mismatch {det : Bool} {p : Byte} (h : Accepted (.pStart own) s)
    (hmatch : addressMatch s.cfg.matchMode p own = false) :
    Plays (frameCaptured s det p) [.engine]
      { frameCaptured s det p with
        pstate := .waitStart, result := .addressMismatch, rspValid := true, busy := false, cstep := 0#4 } [] :=
  Plays.lowStep h.runs rfl (by exact congrArg MicroResult.moved (if_neg (by simp [Cond.eval, frameCaptured, transferred, startMade, hmatch]))) rfl
    (by exact pulled_between_bits (s := s) fun _ => h.clkDir)
    (by simp [frameCaptured, transferred, startMade, State.ownSda, h.datPort, ActionList.run, GuardedSetting.apply,
      Setting.apply, setP, finish])

end

/-- P_START on a frame that matches, from the host's offer to the end. -/
theorem pStart_matched {own : Addr} {p : Byte} {q follow : Bool} {s : State} (hinv : Inv s) (hidle : s.busy = false)
    (hrole : s.cfg.role = .peripheral) (hf : s.follows = follow) (hclk : s.clkPort = true) (hscl : s.envScl = true)
    (hsda : s.envSda = true) (hdol : s.dol = true) (hmatch : addressMatch s.cfg.matchMode p own = true)
    (hsched : s.sched = .host (encode (.pStart own)) :: .engine :: .peer true false ::
      (engines 3 ++ peerTransfer follow (wireBits p) ++ engines 3 ++ peerTransfer follow [q] ++ engines 2)) :
    (∃ t, runSched s = .next t ∧ t.busy = false ∧ t.rspValid = true ∧ t.result = .ok ∧
      t.pstate = .dataExchange ∧ t.xdir = p.getLsbD 0 ∧ t.rdata = p ∧ t.tmp = 0x00#8 ∧ t.sr = 0xFF#8 ∧
      t.clkPort = follow ∧ t.startDet = false ∧ t.fOrder = s.fOrder) ∧
    (follow = true ∨ p.getLsbD 7 = false → schedTrace s = .start :: ((wireBits p).map .bit ++ [.bit false])) := by
  obtain ⟨haccept, h⟩ := plays_accept (i := .pStart own) hinv hidle hrole.symm
  obtain ⟨det, ws, hcapture, hquiet⟩ := plays_capture (p := p) h hf hclk hscl hsda hdol
  obtain ⟨hrun, htrace⟩ := (haccept.append (hcapture.append (plays_match (q := q) h hf hmatch))).runSched
    (hsched.trans (by rw [engines_add 1 2]; simp [engines]))
  refine ⟨⟨_, hrun, rfl, rfl, rfl, rfl, rfl, rfl, rfl, rfl, hf, rfl, Bool.or_false _⟩, fun hp => ?_⟩
  rw [htrace, hquiet hp]
  rfl

/-- P_START on a frame that does not match, from the host's offer to the end. -/
theorem pStart_mismatched {own : Addr} {p : Byte} {follow : Bool} {s : State} (hinv : Inv s) (hidle : s.busy = false)
    (hrole : s.cfg.role = .peripheral) (hf : s.follows = follow) (hclk : s.clkPort = true) (hscl : s.envScl = true)
    (hsda : s.envSda = true) (hdol : s.dol = true) (hmatch : addressMatch s.cfg.matchMode p own = false)
    (hsched : s.sched = .host (encode (.pStart own)) :: .engine :: .peer true false ::
      (engines 3 ++ peerTransfer follow (wireBits p) ++ engines 2)) :
    (∃ t, runSched s = .next t ∧ t.busy = false ∧ t.rspValid = true ∧ t.result = .addressMismatch ∧
      t.pstate = .waitStart ∧ t.xdir = s.xdir ∧ t.rdata = p ∧ t.tmp = p ∧ t.sr = 0xFF#8 ∧ t.ownSda = true ∧
      t.clkPort = follow ∧ t.fOrder = s.fOrder) ∧
    (follow = true ∨ p.getLsbD 7 = false → schedTrace s = .start :: (wireBits p).map .bit) := by
  obtain ⟨haccept, h⟩ := plays_accept (i := .pStart own) hinv hidle hrole.symm
  obtain ⟨det, ws, hcapture, hquiet⟩ := plays_capture (p := p) h hf hclk hscl hsda hdol
  obtain ⟨hrun, htrace⟩ := (haccept.append (hcapture.append (plays_mismatch h hmatch))).runSched
    (hsched.trans (by rw [engines_add 1 1]; simp [engines]))
  refine ⟨⟨_, hrun, rfl, rfl, rfl, rfl, rfl, rfl, rfl, rfl, ownSda_of_released h.datPort rfl, hf, Bool.or_false _⟩,
    fun hp => ?_⟩
  rw [htrace, hquiet hp]
  rfl

/-- Settles O45: by the frame's match, in either clock mode. -/
theorem pStartWholeCommand : Obligations.PStartWholeCommand := by
  unfold Obligations.PStartWholeCommand
  refine ⟨fun own p q s hinv hidle hrole hf hscl hsda hclk _ => ?_, fun own p q s hinv hidle hf hscl hsda hdata _ => ?_⟩
  · have hdol := (hinv.idle hidle).outside.latchReleased hf
    refine ⟨fun hmatch hsched => ?_, fun hmatch hsched => ?_⟩
    · obtain ⟨ht, htrace⟩ := pStart_matched hinv hidle hrole hf hclk hscl hsda hdol hmatch hsched
      exact ⟨ht, fun h7 => htrace (.inr h7)⟩
    · obtain ⟨ht, htrace⟩ := pStart_mismatched hinv hidle hrole hf hclk hscl hsda hdol hmatch hsched
      exact ⟨ht, fun h7 => htrace (.inr h7)⟩
  · have hrole := peripheral_of_follows hf
    have hclk := hinv.followReleases hf
    have hdol := (plays_accept (i := .pStart own) hinv hidle hrole.symm).2.latch_of_data hdata
    refine ⟨fun hmatch hsched => ?_, fun hmatch hsched => ?_⟩
    · obtain ⟨ht, htrace⟩ := pStart_matched hinv hidle hrole hf hclk hscl hsda hdol hmatch hsched
      exact ⟨ht, htrace (.inl rfl)⟩
    · obtain ⟨ht, htrace⟩ := pStart_mismatched hinv hidle hrole hf hclk hscl hsda hdol hmatch hsched
      exact ⟨ht, htrace (.inl rfl)⟩

end Sys2Proof.Machine
end
